-- ==== Sys2Proof/Word.lean ====
section
/-! DEFINITION. The word types of XFC (00_scope.md R14, R15): everything is unsigned, bit 0 is the least significant bit. -/

namespace Sys2Proof

/-- A byte: 8 bits (R14). -/
abbrev Byte := BitVec 8

/-- A 16-bit value: a command word, a response, the CRC register (R20, R70). -/
abbrev Word := BitVec 16

/-- The 11-bit payload counter CNT (R27). -/
abbrev Count := BitVec 11

end Sys2Proof
end

