-- ==== Sys2Proof/Syntax.lean ====
section
/-! DEFINITION. The command set of XFC, whole: one constructor per row of spec/opcode_table.json (30_encoding.md R73). -/

namespace Sys2Proof

/-- The transfer mode, operand m of SETMODE and register MODE (R25, R126). -/
inductive Mode where
  /-- coded 0: one-byte trailer -/
  | checksum
  /-- coded 1: two-byte trailer -/
  | crc16
  deriving DecidableEq, Repr

/-- The block kind, operand k of TXBEGIN and register BLK (R26, R141). -/
inductive BlockKind where
  /-- coded 0: 128-byte block -/
  | soh
  /-- coded 1: 1024-byte block -/
  | stx
  deriving DecidableEq, Repr

/-- The eight read views, operand r of RD (R34). -/
inductive RegView where
  | crc | sum | seq | pad | ctrl | cnt | stat | rxsc
  deriving DecidableEq, Repr

/-- The four operand formats (R71). -/
inductive Format where
  /-- arg must be zero -/
  | z
  /-- arg is a byte -/
  | b
  /-- arg[0] is a flag, arg[7:1] must be zero -/
  | f
  /-- arg[2:0] is a register number, arg[7:3] must be zero -/
  | r
  deriving DecidableEq, Repr

/-- The seventeen commands (R73). -/
inductive Instr where
  | nop
  | init
  | errclr
  | abort
  | rd (r : RegView)
  | sumclr
  | sumbyte (b : Byte)
  | crcclr
  | crcbyte (b : Byte)
  | setmode (m : Mode)
  | setseq (v : Byte)
  | seqnext
  | setpad (v : Byte)
  | txbegin (k : BlockKind)
  | txdata (b : Byte)
  | txpad
  | rxbyte (b : Byte)
  deriving DecidableEq, Repr

/-- A command word taken apart into its two fields, before anything is checked (R70). -/
structure RawCommand where
  op  : Byte
  arg : Byte
  deriving DecidableEq, Repr

end Sys2Proof
end

