-- ==== Sys2Proof/WellFormed.lean ====
section
/-! DEFINITION. What makes a command word legal (30_encoding.md R71, R75). A term of Instr is well-formed by its
types (its operands are exactly the legal values of R71); what can be ill-formed is a word, so the checks are on the
raw command. -/

namespace Sys2Proof

/-- The format of the command that an op byte is assigned to, if it is assigned (R71, R73). -/
def formatOfOp (op : Byte) : Option Format :=
  if op ∈ [0x00#8, 0x01#8, 0x02#8, 0x03#8, 0x10#8, 0x20#8, 0x32#8, 0x42#8] then some .z
  else if op ∈ [0x11#8, 0x21#8, 0x31#8, 0x33#8, 0x41#8, 0x50#8] then some .b
  else if op ∈ [0x30#8, 0x40#8] then some .f
  else if op = 0x08#8 then some .r
  else none

/-- The legal arg values of each format (R71). -/
def Format.legalArg (fmt : Format) (arg : Byte) : Bool :=
  match fmt with
  | .z => arg.toNat == 0
  | .b => true
  | .f => decide (arg.toNat ≤ 1)
  | .r => decide (arg.toNat ≤ 7)

/-- A raw command is well-formed when its op is assigned and its arg is legal for that op's format (R75). -/
def RawCommand.wellFormed (c : RawCommand) : Bool :=
  match formatOfOp c.op with
  | some fmt => fmt.legalArg c.arg
  | none => false

end Sys2Proof
end

