-- ==== Sys2Proof/Decode.lean ====
section
/-! DEFINITION. The command word (30_encoding.md part A): the decoder, total on the 65536 words and rejecting by name
(R75, R78); the encoder, written from the same table (R73); the opcode table as rows of match and mask. -/

namespace Sys2Proof

/-! ## Fields (R70, R72) -/

/-- op = w[15:8] (R70). -/
def opField (w : Word) : Byte := w.extractLsb' 8 8

/-- arg = w[7:0] (R70). -/
def argField (w : Word) : Byte := w.extractLsb' 0 8

/-- The word whose op and arg fields are given (R70). -/
def commandWord (op arg : Byte) : Word := op ++ arg

/-- The two fields of a word (R70). -/
def rawCommand (w : Word) : RawCommand := ⟨opField w, argField w⟩

/-- Coding of the mode, 0 = Checksum, 1 = CRC16 (R25, R126). -/
def Mode.bit : Mode → BitVec 1
  | .checksum => 0#1
  | .crc16 => 1#1

/-- The mode a flag stands for. -/
def Mode.ofBit (f : BitVec 1) : Mode := if f = 1#1 then .crc16 else .checksum

/-- Coding of the block kind, 0 = 128 bytes (SOH), 1 = 1024 bytes (STX) (R17, R26). -/
def BlockKind.bit : BlockKind → BitVec 1
  | .soh => 0#1
  | .stx => 1#1

/-- The block kind a flag stands for. -/
def BlockKind.ofBit (f : BitVec 1) : BlockKind := if f = 1#1 then .stx else .soh

/-- Register number of a read view (R34). -/
def RegView.number : RegView → BitVec 3
  | .crc => 0#3
  | .sum => 1#3
  | .seq => 2#3
  | .pad => 3#3
  | .ctrl => 4#3
  | .cnt => 5#3
  | .stat => 6#3
  | .rxsc => 7#3

/-- The read view a register number selects (R34). -/
def RegView.ofNumber (r : BitVec 3) : RegView :=
  match r with
  | 0#3 => .crc
  | 1#3 => .sum
  | 2#3 => .seq
  | 3#3 => .pad
  | 4#3 => .ctrl
  | 5#3 => .cnt
  | 6#3 => .stat
  | 7#3 => .rxsc

/-! ## Decoding (R75, R78) -/

/-- Why a word is illegal. All of them are the one result Illegal of R78 and have the one effect of R235; the names
say which clause of R75 holds (log 14). -/
inductive DecodeError where
  /-- the op byte is none of the seventeen assigned values -/
  | unassignedOp
  /-- a Z-format op with arg ≠ 0x00 -/
  | argNotZero
  /-- an F-format op with arg > 0x01 -/
  | flagOutOfRange
  /-- op 0x08 with arg > 0x07 -/
  | registerOutOfRange
  deriving DecidableEq, Repr

/-- Format Z: the command of the op, when arg is zero. -/
def decodeZ (i : Instr) (arg : Byte) : Except DecodeError Instr :=
  if arg = 0x00#8 then .ok i else .error .argNotZero

/-- Format F: the command of the op with f = arg[0], when arg[7:1] is zero. -/
def decodeF (i : BitVec 1 → Instr) (arg : Byte) : Except DecodeError Instr :=
  if arg.extractLsb' 1 7 = 0#7 then .ok (i (arg.extractLsb' 0 1)) else .error .flagOutOfRange

/-- Format R: the command of the op with r = arg[2:0], when arg[7:3] is zero. -/
def decodeR (i : BitVec 3 → Instr) (arg : Byte) : Except DecodeError Instr :=
  if arg.extractLsb' 3 5 = 0#5 then .ok (i (arg.extractLsb' 0 3)) else .error .registerOutOfRange

/-- Decoding of the two fields (R78). -/
def decodeFields (op arg : Byte) : Except DecodeError Instr :=
  match op with
  | 0x00#8 => decodeZ .nop arg
  | 0x01#8 => decodeZ .init arg
  | 0x02#8 => decodeZ .errclr arg
  | 0x03#8 => decodeZ .abort arg
  | 0x08#8 => decodeR (fun r => .rd (RegView.ofNumber r)) arg
  | 0x10#8 => decodeZ .sumclr arg
  | 0x11#8 => .ok (.sumbyte arg)
  | 0x20#8 => decodeZ .crcclr arg
  | 0x21#8 => .ok (.crcbyte arg)
  | 0x30#8 => decodeF (fun m => .setmode (Mode.ofBit m)) arg
  | 0x31#8 => .ok (.setseq arg)
  | 0x32#8 => decodeZ .seqnext arg
  | 0x33#8 => .ok (.setpad arg)
  | 0x40#8 => decodeF (fun k => .txbegin (BlockKind.ofBit k)) arg
  | 0x41#8 => .ok (.txdata arg)
  | 0x42#8 => decodeZ .txpad arg
  | 0x50#8 => .ok (.rxbyte arg)
  | _ => .error .unassignedOp

/-- The decoder (R78): every word is one command with its operand, or illegal. -/
def decode (w : Word) : Except DecodeError Instr := decodeFields (opField w) (argField w)

/-! ## Encoding (R73, R79) -/

/-- The op byte of a command (R73). -/
def Instr.op : Instr → Byte
  | .nop => 0x00#8
  | .init => 0x01#8
  | .errclr => 0x02#8
  | .abort => 0x03#8
  | .rd _ => 0x08#8
  | .sumclr => 0x10#8
  | .sumbyte _ => 0x11#8
  | .crcclr => 0x20#8
  | .crcbyte _ => 0x21#8
  | .setmode _ => 0x30#8
  | .setseq _ => 0x31#8
  | .seqnext => 0x32#8
  | .setpad _ => 0x33#8
  | .txbegin _ => 0x40#8
  | .txdata _ => 0x41#8
  | .txpad => 0x42#8
  | .rxbyte _ => 0x50#8

/-- The arg byte of a command (R71, R72). -/
def Instr.arg : Instr → Byte
  | .rd r => r.number.setWidth 8
  | .sumbyte b => b
  | .crcbyte b => b
  | .setmode m => m.bit.setWidth 8
  | .setseq v => v
  | .setpad v => v
  | .txbegin k => k.bit.setWidth 8
  | .txdata b => b
  | .rxbyte b => b
  | .nop | .init | .errclr | .abort | .sumclr | .crcclr | .seqnext | .txpad => 0x00#8

/-- The encoder: the word {op, arg} of R73. -/
def encode (i : Instr) : Word := commandWord i.op i.arg

/-! ## The opcode table (R73) -/

/-- One row of the opcode map R73. -/
structure OpcodeRow where
  mnemonic : String
  format   : Format
  matchBits : Word
  mask     : Word
  deriving DecidableEq, Repr

/-- The opcode map, row by row (R73; spec/opcode_table.json). -/
def opcodeTable : List OpcodeRow :=
  [⟨"NOP", .z, 0x0000#16, 0xFFFF#16⟩,
   ⟨"INIT", .z, 0x0100#16, 0xFFFF#16⟩,
   ⟨"ERRCLR", .z, 0x0200#16, 0xFFFF#16⟩,
   ⟨"ABORT", .z, 0x0300#16, 0xFFFF#16⟩,
   ⟨"RD", .r, 0x0800#16, 0xFFF8#16⟩,
   ⟨"SUMCLR", .z, 0x1000#16, 0xFFFF#16⟩,
   ⟨"SUMBYTE", .b, 0x1100#16, 0xFF00#16⟩,
   ⟨"CRCCLR", .z, 0x2000#16, 0xFFFF#16⟩,
   ⟨"CRCBYTE", .b, 0x2100#16, 0xFF00#16⟩,
   ⟨"SETMODE", .f, 0x3000#16, 0xFFFE#16⟩,
   ⟨"SETSEQ", .b, 0x3100#16, 0xFF00#16⟩,
   ⟨"SEQNEXT", .z, 0x3200#16, 0xFFFF#16⟩,
   ⟨"SETPAD", .b, 0x3300#16, 0xFF00#16⟩,
   ⟨"TXBEGIN", .f, 0x4000#16, 0xFFFE#16⟩,
   ⟨"TXDATA", .b, 0x4100#16, 0xFF00#16⟩,
   ⟨"TXPAD", .z, 0x4200#16, 0xFFFF#16⟩,
   ⟨"RXBYTE", .b, 0x5000#16, 0xFF00#16⟩]

/-- A word is the command of a row exactly when (w and mask) = match (R73). -/
def OpcodeRow.accepts (r : OpcodeRow) (w : Word) : Bool := w &&& r.mask == r.matchBits

/-- The mnemonic of a command (R73). -/
def Instr.mnemonic : Instr → String
  | .nop => "NOP"
  | .init => "INIT"
  | .errclr => "ERRCLR"
  | .abort => "ABORT"
  | .rd _ => "RD"
  | .sumclr => "SUMCLR"
  | .sumbyte _ => "SUMBYTE"
  | .crcclr => "CRCCLR"
  | .crcbyte _ => "CRCBYTE"
  | .setmode _ => "SETMODE"
  | .setseq _ => "SETSEQ"
  | .seqnext => "SEQNEXT"
  | .setpad _ => "SETPAD"
  | .txbegin _ => "TXBEGIN"
  | .txdata _ => "TXDATA"
  | .txpad => "TXPAD"
  | .rxbyte _ => "RXBYTE"

/-- The command word that the host's numbering of the table's bits lays on cmd_data: bit i of w is bit i of the word,
every bit from nbits up is 0 (log 12). -/
def tableWord (nbits w : Nat) : Word := BitVec.ofNat 16 (w % 2 ^ nbits)

/-- The instruction the decoder reads from a word given in the numbering of spec/opcode_table.json. -/
def decodeTableWord (nbits w : Nat) : Option Instr :=
  match decode (tableWord nbits w) with
  | .ok i => some i
  | .error _ => none

end Sys2Proof
end

