-- ==== Sys2Proof/Config.lean ====
section
/-! DEFINITION. What is fixed for the machine: the constants the source fixes (00_scope.md R10, 30_encoding.md R86),
the open parameters of the spec (R13) and the free values (assumption log 1, 2 and 13). -/

namespace Sys2Proof.Config

/-- The CRC polynomial, without its x^16 term (R10, R110). -/
def crcPolynomial : Word := 0x1021#16

/-- The value a cleared CRC register holds: "initial register 0" (R10, R110). -/
def crcInitial : Word := 0x0000#16

/-- SOH, the header byte of a 128-byte block (R86). -/
def soh : Byte := 0x01#8
/-- STX, the header byte of a 1024-byte block (R86). -/
def stx : Byte := 0x02#8
/-- EOT (R86): the host engines'; to XFC an ordinary byte. -/
def eot : Byte := 0x04#8
/-- ACK (R86): the host engines'; to XFC an ordinary byte. -/
def ack : Byte := 0x06#8
/-- NAK (R86): the host engines'; to XFC an ordinary byte. -/
def nak : Byte := 0x15#8
/-- CAN (R86): the host engines'; to XFC an ordinary byte. -/
def can : Byte := 0x18#8
/-- SUB, the default pad byte (R86, R133). -/
def sub : Byte := 0x1A#8
/-- The CRC-request byte 'C' (R86): the host engines'; to XFC an ordinary byte. -/
def crcRequest : Byte := 0x43#8

/-- The number of locations of BUF (R51). -/
def bufSize : Nat := 1024

/-- What a byte of BUF that nothing has written reads as, from power-on. DESIGN CHOICE (log 1): the spec leaves it
unspecified and says that any value will do (10_state.md R38). -/
def unwrittenByte : Byte := 0x00#8

/-- FREE VALUE (log 2): the byte of BUF at an address after the n-th assertion of rst (R37, R38: "unspecified"). -/
opaque resetBufByte : Nat → Nat → Byte

/-- OPEN PARAMETER (R13, D25; log 13): time from acceptance of a command to its completion. No rule reads it.
DESIGN CHOICE (log 13): one natural number without a unit, the same for every command; the spec gives no unit and leaves
open how long each command takes (R278). -/
opaque tCmd : Nat

/-- OPEN PARAMETER (R13, D25; log 13): clock frequency. No rule reads it.
DESIGN CHOICE (log 13): one natural number without a unit; the spec gives no unit. -/
opaque fClk : Nat

/-- How a platform maps the command and response ports into an address space: "addresses, widths and byte order of that
mapping" (D26; R13, R56, R61). DESIGN CHOICE (log 13): natural numbers, widths in bits, one byte order for both ports. -/
structure BusMap where
  commandAddress  : Nat
  commandWidth    : Nat
  responseAddress : Nat
  responseWidth   : Nat
  highByteFirst   : Bool
  deriving DecidableEq, Repr, Inhabited

/-- OPEN PARAMETER (R13, D26; log 13). No rule reads it. -/
opaque busMap : BusMap

end Sys2Proof.Config
end

