-- ==== Sys2Proof/Machine/State.lean ====
section
/-! DEFINITION. The state: XFC's own fifteen items (10_state.md R20) and, beside them, its ports as plain data; the
reasons a step can stop; the state after reset. -/

namespace Sys2Proof.Machine

/-- The framer state FSM (R28). Code 7 is never written (R28, U9; log 9). -/
inductive Fsm where
  /-- 0: no frame is open -/
  | idle
  /-- 1: a transmit frame is open, payload bytes are being accepted -/
  | txpayload
  /-- 2: a receive frame is open, next byte is the sequence number -/
  | rxseq
  /-- 3: next byte is the complement -/
  | rxcmpl
  /-- 4: next byte is a payload byte -/
  | rxpayload
  /-- 5: next byte is the checksum or the high CRC byte -/
  | rxtrl1
  /-- 6: next byte is the low CRC byte -/
  | rxtrl2
  deriving DecidableEq, Repr

/-- The fault latch ERR (R29, R234). Codes 6 and 7 are never written (R234, U9; log 9). -/
inductive Err where
  /-- 0: no rejection since the latch was last released -/
  | none
  /-- 1: the word decodes to no command -/
  | illegal
  /-- 2: the command needs IDLE and a frame is open -/
  | busy
  /-- 3: the command belongs to a frame of the other direction or to no open frame -/
  | phase
  /-- 4: a frame is to be opened and no mode has been chosen -/
  | nomode
  /-- 5: the mode is already chosen -/
  | modelock
  deriving DecidableEq, Repr

/-- The receive result RXRES (R30, R240). Codes 6 and 7 are never written (R240, U9; log 9). -/
inductive RxRes where
  /-- 0 -/
  | none
  /-- 1: a frame ended and all three checks passed -/
  | ok
  /-- 2: RSEQ + RCMP ≠ 0xFF -/
  | badcmpl
  /-- 3: RSEQ ≠ SEQ -/
  | badseq
  /-- 4: the trailer is wrong -/
  | badtrl
  /-- 5: a byte in IDLE that is neither SOH nor STX -/
  | nohdr
  deriving DecidableEq, Repr

/-- The contents of BUF, as a list of (address, byte), strictly rising, no byte equal to what an unlisted address
reads as (log 1). -/
abbrev Memory := List Host.Cell

/-- The whole state of XFC: "the following fifteen items and nothing else" (R20). -/
structure Xfc where
  /-- SUM, running checksum (R21) -/
  sum   : Byte
  /-- CRC, running CRC register (R22) -/
  crc   : Word
  /-- SEQ, current or expected sequence number (R23) -/
  seq   : Byte
  /-- PAD, pad byte (R24) -/
  pad   : Byte
  /-- MODEV, a mode has been chosen in this session (R25) -/
  modev : Bool
  /-- MODE (R25) -/
  mode  : Mode
  /-- BLK, block kind of the current or last frame (R26) -/
  blk   : BlockKind
  /-- CNT, payload bytes processed in the current or last frame (R27) -/
  cnt   : Count
  /-- FSM, framer state (R28) -/
  fsm   : Fsm
  /-- ERR, fault latch (R29) -/
  err   : Err
  /-- RXRES, receive result (R30) -/
  rxres : RxRes
  /-- RSEQ, sequence byte of the frame being received (R31) -/
  rseq  : Byte
  /-- RCMP, complement byte of the frame being received (R31) -/
  rcmp  : Byte
  /-- RTH, first CRC trailer byte of the frame being received (R32) -/
  rth   : Byte
  /-- BUF, payload of the frame being received (R33) -/
  buf   : Memory
  deriving DecidableEq, Repr

/-- What the host does at the ports of XFC (R41, R222): it offers a command word, or asserts rst (log 6 and 8). -/
inductive HostEvent where
  /-- cmd_valid with this word on cmd_data -/
  | command (w : Word)
  /-- an assertion of the rst input -/
  | rst
  deriving DecidableEq, Repr

/-- XFC and its ports. The ports are not XFC's own state (R20, R40); they stand here because a step of Host.Core maps
a state to a state (log 6 and 7). -/
structure State where
  /-- XFC's own fifteen items (R20) -/
  xfc    : Xfc
  /-- what the host offers and XFC has not yet taken, oldest first (R7, R41) -/
  input  : List HostEvent
  /-- every byte emitted on the tx stream so far (R41, R42) -/
  tx     : List Byte
  /-- every byte emitted on the rx stream so far (R41, R42) -/
  rx     : List Byte
  /-- every response so far (R41, R42) -/
  rsp    : List Word
  /-- how many times rst has been asserted: the MODEL's own field, argument of the free value
  Config.resetBufByte (log 2) -/
  resets : Nat
  deriving DecidableEq, Repr

/-- Why the machine stops with a fault: for no reason. The step is total (00_scope.md R8), so there is no constructor;
what the spec calls an exception is the rejection, which is a next state (60_exceptions.md R232). -/
inductive Fault where
  deriving DecidableEq, Repr

/-- Why an instruction has no meaning. -/
inductive Refusal where
  /-- Raised by an arm of exec whose instruction has no meaning yet. Safe. No arm raises it now. -/
  | notModelled (mnemonic : String)
  deriving DecidableEq, Repr

/-- What a step answers. -/
abbrev Result := Host.Outcome State Fault Refusal

/-- XFC right after reset (R37, R261). BUF: log 1. -/
def Xfc.reset : Xfc where
  sum   := 0x00#8
  crc   := 0x0000#16
  seq   := 0x01#8
  pad   := 0x1A#8
  modev := false
  mode  := .checksum
  blk   := .soh
  cnt   := 0#11
  fsm   := .idle
  err   := .none
  rxres := .none
  rseq  := 0x00#8
  rcmp  := 0x00#8
  rth   := 0x00#8
  buf   := []

/-- The machine right after reset: nothing offered, the three output streams empty (R261). -/
def State.reset : State where
  xfc    := Xfc.reset
  input  := []
  tx     := []
  rx     := []
  rsp    := []
  resets := 0

end Sys2Proof.Machine
end

