-- ==== Sys2Proof/Machine/Operands.lean ====
section
/-! DEFINITION. Operand forms and the helper functions of 00_scope.md R17: block sizes, header bytes, trailer lengths;
byte order of the CRC trailer (20_memory.md R55); zero extension (R15). -/

namespace Sys2Proof.Machine

/-- size(k): 128 for SOH, 1024 for STX (R17). -/
def size : BlockKind → Nat
  | .soh => 128
  | .stx => 1024

/-- hdr(k): SOH or STX (R17, R82). -/
def hdr : BlockKind → Byte
  | .soh => Config.soh
  | .stx => Config.stx

/-- tlen(m): 1 for Checksum, 2 for CRC16 (R17). -/
def tlen : Mode → Nat
  | .checksum => 1
  | .crc16 => 2

/-- The block kind a received header byte selects: SOH or STX, any other byte is no data header (R161, R162). -/
def headerKind (b : Byte) : Option BlockKind :=
  if b = Config.soh then some .soh else if b = Config.stx then some .stx else none

/-- The block kind of a payload of exactly 128 or exactly 1024 bytes (R140). -/
def kindOfLength (n : Nat) : Option BlockKind :=
  if n = 128 then some .soh else if n = 1024 then some .stx else none

/-- Bits 15:8 of a 16-bit value: the first CRC trailer byte (R55). -/
def hiByte (w : Word) : Byte := w.extractLsb' 8 8

/-- Bits 7:0 of a 16-bit value: the second CRC trailer byte (R55). -/
def loByte (w : Word) : Byte := w.extractLsb' 0 8

/-- {hi, lo}: the 16-bit value with hi in bits 15:8 and lo in bits 7:0 (R168). -/
def joinBytes (hi lo : Byte) : Word := hi ++ lo

/-- zext_16 (R15). -/
def zext16 {n : Nat} (v : BitVec n) : Word := v.setWidth 16

end Sys2Proof.Machine
end

