-- ==== Sys2Proof/Machine/Arith.lean ====
section
/-! DEFINITION. The arithmetic of XFC (45_system.md R193): the checksum (40_checksum.md R100, R101), the CRC
(41_crc16.md R111 to R113), the complement of a sequence number (30_encoding.md R83). -/

namespace Sys2Proof.Machine

/-- sum_step(s, b) = (s + b) mod 256; the carry out of bit 7 is kept nowhere (R101). -/
def sumStep (s b : Byte) : Byte := s + b

/-- checksum(p): the sum over the integers, modulo 256 (R100). -/
def checksum (p : List Byte) : Byte := BitVec.ofNat 8 ((p.map BitVec.toNat).sum % 256)

/-- crc_bit(c, d): shift left by one, 16 bits kept; xor with 0x1021 when c[15] xor d is 1 (R111). -/
def crcBit (c : Word) (d : Bool) : Word :=
  if c.getLsbD 15 != d then (c <<< 1) ^^^ Config.crcPolynomial else c <<< 1

/-- crc_byte(c, b): the eight bits of b from bit 7 down to bit 0 (R112). -/
def crcByte (c : Word) (b : Byte) : Word :=
  [7, 6, 5, 4, 3, 2, 1, 0].foldl (fun c i => crcBit c (b.getLsbD i)) c

/-- crc16(p): from initial register 0, the bytes in order, the register unchanged at the end (R113). -/
def crc16 (p : List Byte) : Word := p.foldl crcByte Config.crcInitial

/-- 0xFF - seq, the complement byte of a frame (R83). -/
def complement (seq : Byte) : Byte := 0xFF#8 - seq

end Sys2Proof.Machine
end

