-- ==== Sys2Proof/Machine/Flags.lean ====
section
/-! DEFINITION. The status fields: their codes (10_state.md R28, 60_exceptions.md R234, R240), the eight read views
that show them (10_state.md R34, 45_system.md R189) and the level outputs busy and fault (10_state.md R41).
XFC has no arithmetic flag (R36). -/

namespace Sys2Proof.Machine

/-- The 3-bit code of the framer state (R28). -/
def Fsm.code : Fsm → BitVec 3
  | .idle => 0#3
  | .txpayload => 1#3
  | .rxseq => 2#3
  | .rxcmpl => 3#3
  | .rxpayload => 4#3
  | .rxtrl1 => 5#3
  | .rxtrl2 => 6#3

/-- The 3-bit code of the fault latch (R234). -/
def Err.code : Err → BitVec 3
  | .none => 0#3
  | .illegal => 1#3
  | .busy => 2#3
  | .phase => 3#3
  | .nomode => 4#3
  | .modelock => 5#3

/-- The 3-bit code of the receive result (R240). -/
def RxRes.code : RxRes → BitVec 3
  | .none => 0#3
  | .ok => 1#3
  | .badcmpl => 2#3
  | .badseq => 3#3
  | .badtrl => 4#3
  | .nohdr => 5#3

/-- view(4), CTRL: bit 2 = BLK, bit 1 = MODEV, bit 0 = MODE, the rest 0 (R189). -/
def ctrlView (x : Xfc) : Word := 0#13 ++ x.blk.bit ++ BitVec.ofBool x.modev ++ x.mode.bit

/-- view(6), STAT: bits 8:6 = RXRES, bits 5:3 = ERR, bits 2:0 = FSM, the rest 0 (R189). -/
def statView (x : Xfc) : Word := 0#7 ++ x.rxres.code ++ x.err.code ++ x.fsm.code

/-- The eight read views (R34, R189). -/
def view (r : RegView) (x : Xfc) : Word :=
  match r with
  | .crc => x.crc
  | .sum => zext16 x.sum
  | .seq => zext16 x.seq
  | .pad => zext16 x.pad
  | .ctrl => ctrlView x
  | .cnt => zext16 x.cnt
  | .stat => statView x
  | .rxsc => joinBytes x.rcmp x.rseq

/-- The level output busy: 1 exactly when FSM ≠ IDLE (R41). -/
def State.busyOut (s : State) : Bool := decide (s.xfc.fsm ≠ .idle)

/-- The level output fault: 1 exactly when ERR ≠ 0 (R41, R233). -/
def State.faultOut (s : State) : Bool := decide (s.xfc.err ≠ .none)

end Sys2Proof.Machine
end

