-- ==== Sys2Proof/Machine/Ops.lean ====
section
/-! DEFINITION. The named operations over memory, registers and ports that the meanings are made of, among them the
fault latch, the rejection (XFC's only form of exception, 00_scope.md R16) and its release. -/

namespace Sys2Proof.Machine

/-! ## BUF (20_memory.md R50 to R54) -/

/-- MemRead(a, 1): the byte at an address; an unlisted address reads as Config.unwrittenByte (log 1). -/
def Memory.read (m : Memory) (a : Nat) : Byte :=
  match m with
  | [] => Config.unwrittenByte
  | (k, v) :: rest => if k = a then v else Memory.read rest a

/-- The memory without any entry for an address. -/
def Memory.erase (m : Memory) (a : Nat) : Memory := m.filter (fun c => c.1 != a)

/-- The memory with an entry put before the first one of a higher or equal address. -/
def Memory.insert (m : Memory) (a : Nat) (b : Byte) : Memory :=
  match m with
  | [] => [(a, b)]
  | (k, v) :: rest => if a ≤ k then (a, b) :: (k, v) :: rest else (k, v) :: Memory.insert rest a b

/-- MemWrite(a, 1, b), keeping the canonical form: the value an unlisted address reads as is not listed. -/
def Memory.write (m : Memory) (a : Nat) (b : Byte) : Memory :=
  if b = Config.unwrittenByte then m.erase a else (m.erase a).insert a b

/-- The canonical form from an address up: strictly rising addresses inside BUF, no entry equal to what an unlisted
address reads as. -/
def Memory.wfFrom (lo : Nat) (m : Memory) : Bool :=
  match m with
  | [] => true
  | (a, b) :: rest =>
    decide (lo ≤ a) && decide (a < Config.bufSize) && (b != Config.unwrittenByte) && Memory.wfFrom (a + 1) rest

/-- The canonical form of BUF. -/
def Memory.wf (m : Memory) : Bool := m.wfFrom 0

/-- The canonical memory that reads as f on BUF's addresses. -/
def Memory.ofFun (f : Nat → Byte) : Memory :=
  (List.range Config.bufSize).filterMap
    (fun a => if f a = Config.unwrittenByte then none else some (a, f a))

/-- The bytes at addresses 0 to n - 1, in order (R53). -/
def Memory.readFirst (m : Memory) (n : Nat) : List Byte := (List.range n).map m.read

/-! ## Registers and ports (00_scope.md R16) -/

/-- Write registers of XFC, nothing else. -/
def State.update (s : State) (f : Xfc → Xfc) : State := { s with xfc := f s.xfc }

/-- emit_tx, for each byte in order (R16). -/
def State.emitTx (s : State) (bs : List Byte) : State := { s with tx := s.tx ++ bs }

/-- emit_rx, for each byte in order (R16). -/
def State.emitRx (s : State) (bs : List Byte) : State := { s with rx := s.rx ++ bs }

/-- respond(v) (R16). -/
def State.respond (s : State) (v : Word) : State := { s with rsp := s.rsp ++ [v] }

/-! ## Rejection and the fault latch (60_exceptions.md R231 to R245) -/

/-- reject(code): "The step ends with ERR <- code as its only effect" (R232, R244). -/
def reject (code : Err) (s : State) : Result := .next (s.update fun x => { x with err := code })

/-- The release of the fault latch that keeps everything else (R187, R245). -/
def releaseLatch (s : State) : State := s.update fun x => { x with err := .none }

/-- While ERR ≠ NONE the command is ignored: no state change, no output (R231, R233). -/
def unlessLatched (s : State) (k : Result) : Result :=
  if s.xfc.err = .none then k else .next s

/-- Check "FSM = IDLE else BUSY" (R236, R241). -/
def requireIdle (s : State) (k : Result) : Result :=
  if s.xfc.fsm = .idle then k else reject .busy s

/-- Check "FSM = TXPAYLOAD else PHASE" (R237, R241). -/
def requireTxPayload (s : State) (k : Result) : Result :=
  if s.xfc.fsm = .txpayload then k else reject .phase s

/-- Check "MODEV = 1 else NOMODE" (R238, R241). -/
def requireMode (s : State) (k : Result) : Result :=
  if s.xfc.modev = true then k else reject .nomode s

/-- Check "MODEV = 0 else MODELOCK" (R239, R241). -/
def requireNoMode (s : State) (k : Result) : Result :=
  if s.xfc.modev = false then k else reject .modelock s

/-- An illegal word: ignored under the latch, else reject(ILLEGAL) (R231, R235). -/
def illegalWord (s : State) : Result := unlessLatched s (reject .illegal s)

/-! ## Session (10_state.md R37, 45_system.md R186) -/

/-- The reset values of every state item except BUF (R37, R186). -/
def freshSession (buf : Memory) : Xfc where
  sum   := 0x00#8
  crc   := Config.crcInitial
  seq   := 0x01#8
  pad   := Config.sub
  modev := false
  mode  := .checksum
  blk   := .soh
  cnt   := 0#11
  fsm   := .idle
  err   := .none
  rxres := .none
  rseq  := 0x00#8
  rcmp  := 0x00#8
  rth   := 0x00#8
  buf   := buf

/-! ## The framer (43_tx_framer.md R141, R142; 44_rx_validator.md R161, R165) -/

/-- What opening a frame of either direction does to the frame registers and the accumulators (R141, R161). -/
def openFrame (k : BlockKind) (x : Xfc) : Xfc :=
  { x with blk := k, cnt := 0#11, sum := 0x00#8, crc := Config.crcInitial }

/-- What one payload byte of either direction does to the accumulators and the counter (R142, R165).
CNT wraps modulo 2048 in states no run reaches (R27, R193(e); log 5). -/
def countByte (b : Byte) (x : Xfc) : Xfc :=
  { x with sum := sumStep x.sum b, crc := crcByte x.crc b, cnt := x.cnt + 1#11 }

/-- CNT = size(BLK) (R143, R165). -/
def payloadDone (x : Xfc) : Bool := decide (x.cnt.toNat = size x.blk)

/-- tx_put(b) (R142). -/
def txPut (b : Byte) (s : State) : State := (s.emitTx [b]).update (countByte b)

/-- repeat n times: tx_put(b) (R145). -/
def txPutMany (n : Nat) (b : Byte) (s : State) : State :=
  match n with
  | 0 => s
  | n + 1 => txPutMany n b (txPut b s)

/-- The trailer of the open frame: SUM, or the two bytes of CRC, high byte first (R142). -/
def trailerBytes (x : Xfc) : List Byte :=
  match x.mode with
  | .checksum => [x.sum]
  | .crc16 => [hiByte x.crc, loByte x.crc]

/-- tx_close() (R142). -/
def txClose (s : State) : State :=
  (s.emitTx (trailerBytes s.xfc)).update fun x => { x with fsm := .idle }

/-- The address of BUF that CNT is: its low ten bits, CNT[9:0] (R51, R52). They are CNT itself in every state a run
reaches (R52); what they are in the others is log 3. -/
def bufAddress (cnt : Count) : Nat := (cnt.extractLsb' 0 10).toNat

/-- MemWrite(CNT, 1, b), CNT before the increment (R52, R165). -/
def storeAtCount (b : Byte) (x : Xfc) : Xfc := { x with buf := x.buf.write (bufAddress x.cnt) b }

/-- The framer state of a receive frame after a payload byte (R165). -/
def afterPayloadByte (x : Xfc) : Xfc := if payloadDone x then { x with fsm := .rxtrl1 } else x

/-- The code a verdict gives: complement, then sequence, then trailer; the first failing check wins (R169). -/
def verdictCode (trailerOk : Bool) (x : Xfc) : RxRes :=
  if x.rseq.toNat + x.rcmp.toNat ≠ 0xFF then .badcmpl
  else if x.rseq ≠ x.seq then .badseq
  else if trailerOk = false then .badtrl
  else .ok

/-- The payload an OK verdict releases: BUF[0 .. size(BLK)-1] in order (R53, R169). -/
def releasedPayload (x : Xfc) : List Byte := x.buf.readFirst (size x.blk)

/-- verdict(trailer_ok) (R169). -/
def verdict (trailerOk : Bool) (s : State) : State :=
  let code := verdictCode trailerOk s.xfc
  let released := if code = .ok then releasedPayload s.xfc else []
  (s.emitRx released).update fun x => { x with rxres := code, fsm := .idle }

end Sys2Proof.Machine
end

