-- ==== Sys2Proof/Machine/Checksum.lean ====
section
/-! DEFINITION. The checksum unit's commands SUMCLR and SUMBYTE (40_checksum.md R102, R103). -/

namespace Sys2Proof.Machine

/-- SUMCLR: SUM <- 0x00 (R102). -/
def execSumclr (s : State) : Result :=
  unlessLatched s (requireIdle s (.next (s.update fun x => { x with sum := 0x00#8 })))

/-- SUMBYTE b: SUM <- sum_step(SUM, b) (R103). -/
def execSumbyte (b : Byte) (s : State) : Result :=
  unlessLatched s (requireIdle s (.next (s.update fun x => { x with sum := sumStep x.sum b })))

end Sys2Proof.Machine
end

