-- ==== Sys2Proof/Machine/Crc.lean ====
section
/-! DEFINITION. The CRC unit's commands CRCCLR and CRCBYTE (41_crc16.md R114, R115). -/

namespace Sys2Proof.Machine

/-- CRCCLR: CRC <- 0x0000 (R114). -/
def execCrcclr (s : State) : Result :=
  unlessLatched s (requireIdle s (.next (s.update fun x => { x with crc := Config.crcInitial })))

/-- CRCBYTE b: CRC <- crc_byte(CRC, b) (R115). -/
def execCrcbyte (b : Byte) (s : State) : Result :=
  unlessLatched s (requireIdle s (.next (s.update fun x => { x with crc := crcByte x.crc b })))

end Sys2Proof.Machine
end

