-- ==== Sys2Proof/Machine/Receive.lean ====
section
/-! DEFINITION. The receive validator's command RXBYTE (44_rx_validator.md R160), one definition per state rule
(R161 to R168). -/

namespace Sys2Proof.Machine

/-- RXBYTE in IDLE: SOH or STX opens a receive frame (R161); any other byte gives NOHDR (R162). -/
def rxIdle (b : Byte) (s : State) : State :=
  match headerKind b with
  | some k => s.update fun x => { openFrame k x with rxres := .none, fsm := .rxseq }
  | none => s.update fun x => { x with rxres := .nohdr }

/-- RXBYTE in RXSEQ: take the sequence byte (R163). -/
def rxSequence (b : Byte) (s : State) : State := s.update fun x => { x with rseq := b, fsm := .rxcmpl }

/-- RXBYTE in RXCMPL: take the complement byte (R164). -/
def rxComplement (b : Byte) (s : State) : State := s.update fun x => { x with rcmp := b, fsm := .rxpayload }

/-- RXBYTE in RXPAYLOAD: take one payload byte (R165). -/
def rxPayload (b : Byte) (s : State) : State :=
  s.update fun x => afterPayloadByte (countByte b (storeAtCount b x))

/-- RXBYTE in RXTRL1: the checksum byte gives the verdict (R166); the high CRC byte is held (R167). -/
def rxTrailer1 (b : Byte) (s : State) : State :=
  match s.xfc.mode with
  | .checksum => verdict (b == s.xfc.sum) s
  | .crc16 => s.update fun x => { x with rth := b, fsm := .rxtrl2 }

/-- RXBYTE in RXTRL2: the low CRC byte gives the verdict (R168). -/
def rxTrailer2 (b : Byte) (s : State) : State := verdict (joinBytes s.xfc.rth b == s.xfc.crc) s

/-- RXBYTE b (R160). -/
def execRxbyte (b : Byte) (s : State) : Result :=
  unlessLatched s
    (match s.xfc.fsm with
    | .idle => requireMode s (.next (rxIdle b s))
    | .txpayload => reject .phase s
    | .rxseq => .next (rxSequence b s)
    | .rxcmpl => .next (rxComplement b s)
    | .rxpayload => .next (rxPayload b s)
    | .rxtrl1 => .next (rxTrailer1 b s)
    | .rxtrl2 => .next (rxTrailer2 b s))

end Sys2Proof.Machine
end

