-- ==== Sys2Proof/Machine/Session.lean ====
section
/-! DEFINITION. The session registers' commands SETMODE, SETSEQ, SEQNEXT, SETPAD (42_session.md R126, R129, R130, R132). -/

namespace Sys2Proof.Machine

/-- SETMODE m: MODEV <- 1, MODE <- m, once per session (R126). -/
def execSetmode (m : Mode) (s : State) : Result :=
  unlessLatched s (requireIdle s (requireNoMode s
    (.next (s.update fun x => { x with modev := true, mode := m }))))

/-- SETSEQ v: SEQ <- v (R129). -/
def execSetseq (v : Byte) (s : State) : Result :=
  unlessLatched s (requireIdle s (.next (s.update fun x => { x with seq := v })))

/-- SEQNEXT: SEQ <- (SEQ + 1) mod 256 (R130). -/
def execSeqnext (s : State) : Result :=
  unlessLatched s (requireIdle s (.next (s.update fun x => { x with seq := x.seq + 1#8 })))

/-- SETPAD v: PAD <- v (R132). -/
def execSetpad (v : Byte) (s : State) : Result :=
  unlessLatched s (requireIdle s (.next (s.update fun x => { x with pad := v })))

end Sys2Proof.Machine
end

