-- ==== Sys2Proof/Machine/System.lean ====
section
/-! DEFINITION. The system commands NOP, INIT, ERRCLR, ABORT, RD (45_system.md R185 to R189). -/

namespace Sys2Proof.Machine

/-- NOP: do nothing; executes under the latch (R185). -/
def execNop (s : State) : Result := .next s

/-- INIT: every state item except BUF takes its reset value; executes under the latch (R186). -/
def execInit (s : State) : Result := .next (s.update fun x => freshSession x.buf)

/-- ERRCLR: clear the fault latch; executes under the latch (R187). -/
def execErrclr (s : State) : Result := .next (releaseLatch s)

/-- ABORT: FSM <- IDLE, CNT <- 0, in every framer state; ignored under the latch (R188). -/
def execAbort (s : State) : Result :=
  unlessLatched s (.next (s.update fun x => { x with fsm := .idle, cnt := 0#11 }))

/-- RD r: one value on rsp, no side effect; executes under the latch (R189). -/
def execRd (r : RegView) (s : State) : Result := .next (s.respond (view r s.xfc))

end Sys2Proof.Machine
end

