-- ==== Sys2Proof/Machine/Transmit.lean ====
section
/-! DEFINITION. The transmit framer's commands TXBEGIN, TXDATA, TXPAD (43_tx_framer.md R141, R143, R145). -/

namespace Sys2Proof.Machine

/-- TXBEGIN k: open a transmit frame and emit its first three bytes (R141). -/
def execTxbegin (k : BlockKind) (s : State) : Result :=
  unlessLatched s (requireIdle s (requireMode s
    (.next ((s.emitTx [hdr k, s.xfc.seq, complement s.xfc.seq]).update
      fun x => { openFrame k x with fsm := .txpayload }))))

/-- TXDATA b: emit one payload byte; after the last, emit the trailer and close the frame (R143). -/
def execTxdata (b : Byte) (s : State) : Result :=
  unlessLatched s (requireTxPayload s
    (.next (if payloadDone (txPut b s).xfc then txClose (txPut b s) else txPut b s)))

/-- TXPAD: fill the rest of the payload with PAD, emit the trailer and close the frame (R145). In states no run
reaches, CNT ≥ size(BLK), no pad byte is emitted (log 4). -/
def execTxpad (s : State) : Result :=
  unlessLatched s (requireTxPayload s
    (.next (txClose (txPutMany (size s.xfc.blk - s.xfc.cnt.toNat) s.xfc.pad s))))

end Sys2Proof.Machine
end

