-- ==== Sys2Proof/Machine/Dispatch.lean ====
section
/-! DEFINITION. One arm per command (60_exceptions.md R231). -/

namespace Sys2Proof.Machine

def exec (i : Instr) (s : State) : Host.Outcome State Fault Refusal :=
  match i with
  | .nop => Sys2Proof.Machine.execNop s
  | .init => Sys2Proof.Machine.execInit s
  | .errclr => Sys2Proof.Machine.execErrclr s
  | .abort => Sys2Proof.Machine.execAbort s
  | .rd r => Sys2Proof.Machine.execRd r s
  | .sumclr => Sys2Proof.Machine.execSumclr s
  | .sumbyte b => Sys2Proof.Machine.execSumbyte b s
  | .crcclr => Sys2Proof.Machine.execCrcclr s
  | .crcbyte b => Sys2Proof.Machine.execCrcbyte b s
  | .setmode m => Sys2Proof.Machine.execSetmode m s
  | .setseq v => Sys2Proof.Machine.execSetseq v s
  | .seqnext => Sys2Proof.Machine.execSeqnext s
  | .setpad v => Sys2Proof.Machine.execSetpad v s
  | .txbegin k => Sys2Proof.Machine.execTxbegin k s
  | .txdata b => Sys2Proof.Machine.execTxdata b s
  | .txpad => Sys2Proof.Machine.execTxpad s
  | .rxbyte b => Sys2Proof.Machine.execRxbyte b s

end Sys2Proof.Machine
end

