-- ==== Sys2Proof/Machine/Port.lean ====
section
/-! DEFINITION. The command port and the rst input (10_state.md R41; 70_reset_and_hazards.md R260 to R262): how a step
takes what the host offers. -/

namespace Sys2Proof.Machine

/-- Take the oldest thing the host offers, if it offers anything (R7, R41). -/
def takeEvent (s : State) : Option (HostEvent × State) :=
  match s.input with
  | [] => none
  | e :: rest => some (e, { s with input := rest })

/-- An assertion of rst: the reset values (R37, R260); BUF is unspecified, so it holds free values (R38; log 2); bytes
already emitted are not recalled (R262); no command is accepted (R41). -/
def assertReset (s : State) : State :=
  { s with xfc := freshSession (Memory.ofFun (Config.resetBufByte s.resets)), resets := s.resets + 1 }

/-- Put a command word where the next step takes it from. -/
def offerFirst (w : Word) (s : State) : State := { s with input := .command w :: s.input }

/-- The host offers command words, after whatever it already offers (R7). -/
def offer (ws : List Word) (s : State) : State := { s with input := s.input ++ ws.map .command }

end Sys2Proof.Machine
end

