-- ==== Sys2Proof/Machine/Step.lean ====
section
/-! DEFINITION. One step of XFC (00_scope.md R7, R8; 60_exceptions.md R231). -/

namespace Sys2Proof.Machine

/-- The step: take what the host offers; a word is decoded and executed, or is illegal; rst resets; with nothing
offered the state does not change (R252; log 10). -/
def step (s : State) : Host.Outcome State Fault Refusal :=
  match takeEvent s with
  | none => .next s
  | some (.rst, s') => .next (assertReset s')
  | some (.command w, s') =>
    match decode w with
    | .ok i => exec i s'
    | .error _ => illegalWord s'

/-- The state in which the next step takes exactly the command word whose bits are w (log 6 and 12). -/
def State.withFetchWord (s : State) (nbits w : Nat) : State := offerFirst (tableWord nbits w) s

end Sys2Proof.Machine
end

