-- ==== Sys2Proof/Machine/Program.lean ====
section
/-! DEFINITION. Command sequences (00_scope.md R7, 70_reset_and_hazards.md R279) and the pseudo-instructions
(30_encoding.md R80), which have no encoding of their own. -/

namespace Sys2Proof.Machine

/-- The commands of a sequence, one step each, in order (R7, R63). -/
def runCommands (is : List Instr) (s : State) : Result :=
  match is with
  | [] => .next s
  | i :: rest =>
    match exec i s with
    | .next t => runCommands rest t
    | .fault r => .fault r
    | .refused r => .refused r

/-- TXBEGIN k; TXDATA for each byte; then TXPAD if the payload is short (R80, R146). -/
def txFrameCommands (k : BlockKind) (p : List Byte) : List Instr :=
  .txbegin k :: p.map .txdata ++ (if p.length < size k then [.txpad] else [])

/-- RXBYTE for each byte (R80, R171). -/
def rxFrameCommands (raw : List Byte) : List Instr := raw.map .rxbyte

/-- SUMCLR; SUMBYTE for each byte; RD SUM (R80, R104). -/
def checksumCommands (p : List Byte) : List Instr := .sumclr :: p.map .sumbyte ++ [.rd .sum]

/-- CRCCLR; CRCBYTE for each byte; RD CRC (R80, R116). -/
def crc16Commands (p : List Byte) : List Instr := .crcclr :: p.map .crcbyte ++ [.rd .crc]

/-- The pseudo-instructions (R80). -/
inductive Pseudo where
  | sumrd
  | crcrd
  | statrd
  | checksum (bs : List Byte)
  | crc16 (bs : List Byte)
  | txframe (k : BlockKind) (bs : List Byte)
  | rxframe (bs : List Byte)
  deriving DecidableEq, Repr

/-- The expansion of a pseudo-instruction; TXFRAME takes 1 to size(k) bytes (R80). -/
def Pseudo.expand (p : Pseudo) : Option (List Instr) :=
  match p with
  | .sumrd => some [.rd .sum]
  | .crcrd => some [.rd .crc]
  | .statrd => some [.rd .stat]
  | .checksum bs => some (checksumCommands bs)
  | .crc16 bs => some (crc16Commands bs)
  | .txframe k bs => if 1 ≤ bs.length ∧ bs.length ≤ size k then some (txFrameCommands k bs) else none
  | .rxframe bs => some (rxFrameCommands bs)

end Sys2Proof.Machine
end

