-- ==== Sys2Proof/Machine/Assembler.lean ====
section
/-! DEFINITION. The assembler syntax (30_encoding.md R79, R80): a line of text to commands. Lines are lists of
characters. What R79 leaves open of the text is log 15; no command's meaning rests on it. -/

namespace Sys2Proof.Machine

/-- The hexadecimal digits of R79 in order of their values. -/
def hexChars : List Char := ['0', '1', '2', '3', '4', '5', '6', '7', '8', '9', 'A', 'B', 'C', 'D', 'E', 'F']

/-- A hexadecimal digit, in capitals. -/
def hexChar (n : BitVec 4) : Char := hexChars.getD n.toNat '0'

/-- The value of a digit of the given base: its place among the digits; small letters count as capitals (log 15). -/
def digitValue (base : Nat) (c : Char) : Option Nat := (hexChars.take base).idxOf? c.toUpper

/-- The value of a row of decimal digits, most significant first (R79). -/
def decimal (cs : List Char) : Option Nat :=
  cs.foldl (fun acc c => acc.bind fun n => (digitValue 10 c).map fun d => 10 * n + d) (some 0)

/-- A byte operand: 0x and two hexadecimal digits, or a decimal number 0 to 255 (R79). -/
def byteOperand (cs : List Char) : Option Byte :=
  match cs with
  | [] => none
  | ['0', 'x', h, l] =>
    (digitValue 16 h).bind fun high => (digitValue 16 l).map fun low => BitVec.ofNat 8 (16 * high + low)
  | cs => ((decimal cs).filter (· ≤ 255)).map (BitVec.ofNat 8)

/-- Everything before a #, which starts a comment (R79). -/
def stripComment (cs : List Char) : List Char := cs.takeWhile (· != '#')

/-- One character more at the front of a line whose rest is split at its spaces. -/
def tokenStep (c : Char) (acc : List Char × List (List Char)) : List Char × List (List Char) :=
  if c = ' ' then ([], if acc.1 = [] then acc.2 else acc.1 :: acc.2) else (c :: acc.1, acc.2)

/-- The words of a line. -/
def tokens (cs : List Char) : List (List Char) :=
  let acc := cs.foldr tokenStep ([], [])
  if acc.1 = [] then acc.2 else acc.1 :: acc.2

/-- The words of an operand list: every one but the last ends in a comma. -/
def commaList (ts : List (List Char)) : Option (List (List Char)) :=
  match ts with
  | [] => some []
  | [t] => some [t]
  | t :: rest =>
    if t.getLast? = some ',' then (commaList rest).map (t.dropLast :: ·) else none

/-- The bytes of a list of words. -/
def byteOperands (ts : List (List Char)) : Option (List Byte) := ts.mapM byteOperand

/-- Commands without an operand (R73). -/
def namesZ : List (List Char × Instr) :=
  [(['N', 'O', 'P'], .nop),
   (['I', 'N', 'I', 'T'], .init),
   (['E', 'R', 'R', 'C', 'L', 'R'], .errclr),
   (['A', 'B', 'O', 'R', 'T'], .abort),
   (['S', 'U', 'M', 'C', 'L', 'R'], .sumclr),
   (['C', 'R', 'C', 'C', 'L', 'R'], .crcclr),
   (['S', 'E', 'Q', 'N', 'E', 'X', 'T'], .seqnext),
   (['T', 'X', 'P', 'A', 'D'], .txpad)]

/-- Commands with a byte operand (R73). -/
def namesB : List (List Char × (Byte → Instr)) :=
  [(['S', 'U', 'M', 'B', 'Y', 'T', 'E'], .sumbyte),
   (['C', 'R', 'C', 'B', 'Y', 'T', 'E'], .crcbyte),
   (['S', 'E', 'T', 'S', 'E', 'Q'], .setseq),
   (['S', 'E', 'T', 'P', 'A', 'D'], .setpad),
   (['T', 'X', 'D', 'A', 'T', 'A'], .txdata),
   (['R', 'X', 'B', 'Y', 'T', 'E'], .rxbyte)]

/-- Commands with a symbolic operand, each with its operand's name (R79). -/
def namesSymbolic : List ((List Char × List Char) × Instr) :=
  [((['S', 'E', 'T', 'M', 'O', 'D', 'E'], ['C', 'H', 'E', 'C', 'K', 'S', 'U', 'M']), .setmode .checksum),
   ((['S', 'E', 'T', 'M', 'O', 'D', 'E'], ['C', 'R', 'C', '1', '6']), .setmode .crc16),
   ((['T', 'X', 'B', 'E', 'G', 'I', 'N'], ['S', 'O', 'H']), .txbegin .soh),
   ((['T', 'X', 'B', 'E', 'G', 'I', 'N'], ['S', 'T', 'X']), .txbegin .stx),
   ((['R', 'D'], ['C', 'R', 'C']), .rd .crc),
   ((['R', 'D'], ['S', 'U', 'M']), .rd .sum),
   ((['R', 'D'], ['S', 'E', 'Q']), .rd .seq),
   ((['R', 'D'], ['P', 'A', 'D']), .rd .pad),
   ((['R', 'D'], ['C', 'T', 'R', 'L']), .rd .ctrl),
   ((['R', 'D'], ['C', 'N', 'T']), .rd .cnt),
   ((['R', 'D'], ['S', 'T', 'A', 'T']), .rd .stat),
   ((['R', 'D'], ['R', 'X', 'S', 'C']), .rd .rxsc)]

/-- Pseudo-instructions without an operand (R80). -/
def namesPseudo : List (List Char × Pseudo) :=
  [(['S', 'U', 'M', 'R', 'D'], .sumrd),
   (['C', 'R', 'C', 'R', 'D'], .crcrd),
   (['S', 'T', 'A', 'T', 'R', 'D'], .statrd)]

/-- Pseudo-instructions with a list of bytes (R80). -/
def namesPseudoBytes : List (List Char × (List Byte → Pseudo)) :=
  [(['C', 'H', 'E', 'C', 'K', 'S', 'U', 'M'], .checksum),
   (['C', 'R', 'C', '1', '6'], .crc16),
   (['R', 'X', 'F', 'R', 'A', 'M', 'E'], .rxframe)]

/-- A line that is one command (R79). -/
def assembleCommand (name : List Char) (operands : List (List Char)) : Option Instr :=
  match operands with
  | [] => namesZ.lookup name
  | [a] =>
    match namesSymbolic.lookup (name, a) with
    | some i => some i
    | none =>
      match namesB.lookup name, byteOperand a with
      | some f, some b => some (f b)
      | _, _ => none
  | _ => none

/-- A line that is one pseudo-instruction (R80). -/
def assemblePseudo (name : List Char) (operands : List (List Char)) : Option Pseudo :=
  match commaList operands with
  | none => none
  | some [] =>
    match namesPseudo.lookup name with
    | some p => some p
    | none => (namesPseudoBytes.lookup name).map (fun f => f [])
  | some (a :: rest) =>
    if name = ['T', 'X', 'F', 'R', 'A', 'M', 'E'] then
      match namesSymbolic.lookup (['T', 'X', 'B', 'E', 'G', 'I', 'N'], a), byteOperands rest with
      | some (.txbegin k), some bs => some (.txframe k bs)
      | _, _ => none
    else
      match namesPseudoBytes.lookup name, byteOperands (a :: rest) with
      | some f, some bs => some (f bs)
      | _, _ => none

/-- One line of a program: its commands, none of them for an empty line or a comment (R79, R80). -/
def assembleLine (line : List Char) : Option (List Instr) :=
  match tokens (stripComment line) with
  | [] => some []
  | name :: operands =>
    match assembleCommand name operands with
    | some i => some [i]
    | none => (assemblePseudo name operands).bind Pseudo.expand

/-- A byte operand as 0x and two hexadecimal digits (R79). -/
def byteText (b : Byte) : List Char := ['0', 'x', hexChar (b.extractLsb' 4 4), hexChar (b.extractLsb' 0 4)]

/-- The line that R79 writes for a command. -/
def commandText (i : Instr) : List Char :=
  match i with
  | .nop => ['N', 'O', 'P']
  | .init => ['I', 'N', 'I', 'T']
  | .errclr => ['E', 'R', 'R', 'C', 'L', 'R']
  | .abort => ['A', 'B', 'O', 'R', 'T']
  | .rd .crc => ['R', 'D', ' ', 'C', 'R', 'C']
  | .rd .sum => ['R', 'D', ' ', 'S', 'U', 'M']
  | .rd .seq => ['R', 'D', ' ', 'S', 'E', 'Q']
  | .rd .pad => ['R', 'D', ' ', 'P', 'A', 'D']
  | .rd .ctrl => ['R', 'D', ' ', 'C', 'T', 'R', 'L']
  | .rd .cnt => ['R', 'D', ' ', 'C', 'N', 'T']
  | .rd .stat => ['R', 'D', ' ', 'S', 'T', 'A', 'T']
  | .rd .rxsc => ['R', 'D', ' ', 'R', 'X', 'S', 'C']
  | .sumclr => ['S', 'U', 'M', 'C', 'L', 'R']
  | .sumbyte b => ['S', 'U', 'M', 'B', 'Y', 'T', 'E', ' '] ++ byteText b
  | .crcclr => ['C', 'R', 'C', 'C', 'L', 'R']
  | .crcbyte b => ['C', 'R', 'C', 'B', 'Y', 'T', 'E', ' '] ++ byteText b
  | .setmode .checksum => ['S', 'E', 'T', 'M', 'O', 'D', 'E', ' ', 'C', 'H', 'E', 'C', 'K', 'S', 'U', 'M']
  | .setmode .crc16 => ['S', 'E', 'T', 'M', 'O', 'D', 'E', ' ', 'C', 'R', 'C', '1', '6']
  | .setseq v => ['S', 'E', 'T', 'S', 'E', 'Q', ' '] ++ byteText v
  | .seqnext => ['S', 'E', 'Q', 'N', 'E', 'X', 'T']
  | .setpad v => ['S', 'E', 'T', 'P', 'A', 'D', ' '] ++ byteText v
  | .txbegin .soh => ['T', 'X', 'B', 'E', 'G', 'I', 'N', ' ', 'S', 'O', 'H']
  | .txbegin .stx => ['T', 'X', 'B', 'E', 'G', 'I', 'N', ' ', 'S', 'T', 'X']
  | .txdata b => ['T', 'X', 'D', 'A', 'T', 'A', ' '] ++ byteText b
  | .txpad => ['T', 'X', 'P', 'A', 'D']
  | .rxbyte b => ['R', 'X', 'B', 'Y', 'T', 'E', ' '] ++ byteText b

end Sys2Proof.Machine
end

