-- ==== Sys2Proof/Machine/Codec.lean ====
section
/-! DEFINITION. The functions of the source that XFC computes a byte at a time: encode (43_tx_framer.md R140) and
decode_and_validate (44_rx_validator.md R170), and the wire frame's layout (30_encoding.md R81 to R85). No meaning
calls them; statements compare the meanings with them. -/

namespace Sys2Proof.Machine

/-- The trailer of a frame: checksum(payload), or crc16(payload) high byte first (R85, R140). -/
def frameTrailer (mode : Mode) (payload : List Byte) : List Byte :=
  match mode with
  | .checksum => [checksum payload]
  | .crc16 => [hiByte (crc16 payload), loByte (crc16 payload)]

/-- encode(seq, payload, mode): [header][seq][0xFF-seq][payload][trailer]; not defined, so none, for a payload of
another length than 128 or 1024 (R140, U18). -/
def encodeFrame (seq : Byte) (payload : List Byte) (mode : Mode) : Option (List Byte) :=
  match kindOfLength payload.length with
  | some k => some ([hdr k, seq, complement seq] ++ payload ++ frameTrailer mode payload)
  | none => none

/-- The trailer check of decode_and_validate, on the trailer's bytes (R170). -/
def trailerMatches (mode : Mode) (payload trl : List Byte) : Bool :=
  match mode, trl with
  | .checksum, [c] => c == checksum payload
  | .crc16, [h, l] => joinBytes h l == crc16 payload
  | _, _ => false

/-- decode_and_validate(raw, expected_seq, mode) on a whole frame with its header byte; an error carries the code of
the first failing check in the order of R169. Not defined, so none, for a raw of another shape (R170, U18). -/
def decodeAndValidate (raw : List Byte) (expectedSeq : Byte) (mode : Mode) : Option (Except RxRes (List Byte)) :=
  match raw with
  | header :: seq :: cmpl :: body =>
    match headerKind header with
    | some k =>
      if body.length = size k + tlen mode then
        let payload := body.take (size k)
        some (if seq.toNat + cmpl.toNat ≠ 0xFF then .error .badcmpl
          else if seq ≠ expectedSeq then .error .badseq
          else if trailerMatches mode payload (body.drop (size k)) = false then .error .badtrl
          else .ok payload)
      else none
    | none => none
  | _ => none

end Sys2Proof.Machine
end

