-- ==== Sys2Proof/Safety.lean ====
section
/-! DEFINITION. The terms statements use: reachable states, the invariant of reachable states (10_state.md R39), the
precondition table (60_exceptions.md R241), the framer's transition table (45_system.md R191), states that differ in
BUF only (10_state.md R38). -/

namespace Sys2Proof.Machine

/-- A state some run from reset reaches, whatever the host offers (R39, R279). -/
inductive Reachable : State → Prop where
  | start (events : List HostEvent) : Reachable { State.reset with input := events }
  | step {s t : State} : Reachable s → step s = .next t → Reachable t

/-- A receive frame is open. -/
def Fsm.receiving : Fsm → Bool
  | .idle | .txpayload => false
  | .rxseq | .rxcmpl | .rxpayload | .rxtrl1 | .rxtrl2 => true

/-- The invariant of reachable states, clause by clause (R39); (a) and (l) hold of the types. -/
structure Inv (s : State) : Prop where
  /-- (b) -/
  cntBound : s.xfc.cnt.toNat ≤ 1024
  /-- (c) -/
  openHasMode : s.xfc.fsm ≠ .idle → s.xfc.modev = true
  /-- (d) -/
  txCount : s.xfc.fsm = .txpayload → s.xfc.cnt.toNat < size s.xfc.blk
  /-- (e) -/
  rxHeadCount : s.xfc.fsm = .rxseq ∨ s.xfc.fsm = .rxcmpl → s.xfc.cnt = 0#11
  /-- (f) -/
  rxPayloadCount : s.xfc.fsm = .rxpayload → s.xfc.cnt.toNat < size s.xfc.blk
  /-- (g) -/
  rxTrailerCount : s.xfc.fsm = .rxtrl1 ∨ s.xfc.fsm = .rxtrl2 → s.xfc.cnt.toNat = size s.xfc.blk
  /-- (h) -/
  rxTrailer2Mode : s.xfc.fsm = .rxtrl2 → s.xfc.mode = .crc16
  /-- (i) -/
  idleCount : s.xfc.fsm = .idle → s.xfc.cnt = 0#11 ∨ s.xfc.cnt.toNat = size s.xfc.blk
  /-- (j) -/
  noModeIsChecksum : s.xfc.modev = false → s.xfc.mode = .checksum
  /-- (k), a transmit frame: the tx stream ends with the frame's three header bytes and the payload so far -/
  txAccumulated : s.xfc.fsm = .txpayload → ∃ before p : List Byte,
    s.tx = before ++ [hdr s.xfc.blk, s.xfc.seq, complement s.xfc.seq] ++ p ∧ p.length = s.xfc.cnt.toNat ∧
      s.xfc.sum = checksum p ∧ s.xfc.crc = crc16 p
  /-- (k), a receive frame: the payload so far is in BUF -/
  rxAccumulated : s.xfc.fsm.receiving = true →
    s.xfc.sum = checksum (s.xfc.buf.readFirst s.xfc.cnt.toNat) ∧
      s.xfc.crc = crc16 (s.xfc.buf.readFirst s.xfc.cnt.toNat)
  /-- BUF keeps its canonical form (log 1) -/
  bufCanonical : s.xfc.buf.wf = true

/-- The reset values of every state item except BUF (R37). -/
def Xfc.AtResetValues (x : Xfc) : Prop :=
  x.sum = 0x00#8 ∧ x.crc = 0x0000#16 ∧ x.seq = 0x01#8 ∧ x.pad = 0x1A#8 ∧ x.modev = false ∧ x.mode = .checksum ∧
    x.blk = .soh ∧ x.cnt = 0#11 ∧ x.fsm = .idle ∧ x.err = .none ∧ x.rxres = .none ∧ x.rseq = 0x00#8 ∧
    x.rcmp = 0x00#8 ∧ x.rth = 0x00#8

/-- Commands that execute when ERR ≠ NONE (R231, R241). -/
def executesLatched (i : Instr) : Bool :=
  match i with
  | .nop | .init | .errclr | .rd _ => true
  | .abort | .sumclr | .sumbyte _ | .crcclr | .crcbyte _ | .setmode _ | .setseq _ | .seqnext | .setpad _
  | .txbegin _ | .txdata _ | .txpad | .rxbyte _ => false

/-- The precondition table (R241): the code of the first failing check of a command when ERR = NONE, if one fails. -/
def failedCheck (i : Instr) (x : Xfc) : Option Err :=
  match i with
  | .nop | .init | .errclr | .rd _ | .abort => none
  | .sumclr | .sumbyte _ | .crcclr | .crcbyte _ | .setseq _ | .seqnext | .setpad _ =>
    if x.fsm = .idle then none else some .busy
  | .setmode _ =>
    if x.fsm = .idle then (if x.modev = false then none else some .modelock) else some .busy
  | .txbegin _ =>
    if x.fsm = .idle then (if x.modev = true then none else some .nomode) else some .busy
  | .txdata _ | .txpad => if x.fsm = .txpayload then none else some .phase
  | .rxbyte _ =>
    if x.fsm = .txpayload then some .phase
    else if x.fsm = .idle then (if x.modev = true then none else some .nomode)
    else none

/-- A command executes: R231 neither ignores it under the latch nor rejects it. -/
def executes (i : Instr) (x : Xfc) : Bool :=
  if x.err = .none then (failedCheck i x).isNone else executesLatched i

/-- The framer state after a command that executes (R191). -/
def fsmAfter (i : Instr) (x : Xfc) : Fsm :=
  match i with
  | .txbegin _ => .txpayload
  | .txdata _ => if x.cnt.toNat + 1 = size x.blk then .idle else .txpayload
  | .txpad => .idle
  | .rxbyte b =>
    match x.fsm with
    | .idle => if b = 0x01#8 ∨ b = 0x02#8 then .rxseq else .idle
    | .txpayload => .txpayload
    | .rxseq => .rxcmpl
    | .rxcmpl => .rxpayload
    | .rxpayload => if x.cnt.toNat + 1 = size x.blk then .rxtrl1 else .rxpayload
    | .rxtrl1 => match x.mode with
      | .checksum => .idle
      | .crc16 => .rxtrl2
    | .rxtrl2 => .idle
  | .abort | .init => .idle
  | .nop | .errclr | .rd _ | .sumclr | .sumbyte _ | .crcclr | .crcbyte _ | .setmode _ | .setseq _ | .seqnext
  | .setpad _ => x.fsm

/-- The items of XFC's state, MODEV and MODE together, as the rows of the write map (R43). -/
inductive Item where
  | sum | crc | seq | pad | modeBits | blk | cnt | fsm | err | rxres | rseq | rcmp | rth | buf
  deriving DecidableEq, Repr

/-- "rx header": RXBYTE in IDLE with a SOH or STX operand (R43). -/
def isRxHeader (b : Byte) (x : Xfc) : Bool := decide (x.fsm = .idle) && (b == 0x01#8 || b == 0x02#8)

/-- RXBYTE that ends a frame (R166, R168). -/
def endsRxFrame (x : Xfc) : Bool :=
  decide (x.fsm = .rxtrl2) || (decide (x.fsm = .rxtrl1) && decide (x.mode = .checksum))

/-- The write map (R43), its rows for commands: whether a command may write an item. -/
def mayWrite (item : Item) (i : Instr) (x : Xfc) : Bool :=
  match i with
  | .nop | .rd _ => false
  | .init => decide (item ≠ .buf)
  | .errclr => decide (item = .err)
  | .abort => decide (item = .cnt) || decide (item = .fsm) || mayReject item
  | .sumclr | .sumbyte _ => decide (item = .sum) || mayReject item
  | .crcclr | .crcbyte _ => decide (item = .crc) || mayReject item
  | .setmode _ => decide (item = .modeBits) || mayReject item
  | .setseq _ | .seqnext => decide (item = .seq) || mayReject item
  | .setpad _ => decide (item = .pad) || mayReject item
  | .txbegin _ => decide (item ∈ [.sum, .crc, .blk, .cnt, .fsm]) || mayReject item
  | .txdata _ | .txpad => decide (item ∈ [.sum, .crc, .cnt, .fsm]) || mayReject item
  | .rxbyte b =>
    (match item with
      | .sum | .crc | .cnt => isRxHeader b x || decide (x.fsm = .rxpayload)
      | .blk => isRxHeader b x
      | .fsm => true
      | .rxres => decide (x.fsm = .idle) || endsRxFrame x
      | .rseq => decide (x.fsm = .rxseq)
      | .rcmp => decide (x.fsm = .rxcmpl)
      | .rth => decide (x.fsm = .rxtrl1) && decide (x.mode = .crc16)
      | .buf => decide (x.fsm = .rxpayload)
      | .seq | .pad | .modeBits | .err => false) || mayReject item
where
  /-- ERR is written by "any rejected command while ERR = 0" -/
  mayReject (item : Item) : Bool :=
    decide (item = .err) && decide (x.err = .none) && (failedCheck i x).isSome

/-- The two states hold the same value of an item. -/
def SameItem (item : Item) (x y : Xfc) : Prop :=
  match item with
  | .sum => y.sum = x.sum
  | .crc => y.crc = x.crc
  | .seq => y.seq = x.seq
  | .pad => y.pad = x.pad
  | .modeBits => y.modev = x.modev ∧ y.mode = x.mode
  | .blk => y.blk = x.blk
  | .cnt => y.cnt = x.cnt
  | .fsm => y.fsm = x.fsm
  | .err => y.err = x.err
  | .rxres => y.rxres = x.rxres
  | .rseq => y.rseq = x.rseq
  | .rcmp => y.rcmp = x.rcmp
  | .rth => y.rth = x.rth
  | .buf => y.buf = x.buf

/-- Two states that are equal but for the bytes of BUF that no rule lets show: in an open receive frame BUF agrees on
the payload taken so far (R38, R54). -/
def DifferOnlyInHiddenBuf (s s' : State) : Prop :=
  s' = { s with xfc := { s.xfc with buf := s'.xfc.buf } } ∧
    (s.xfc.fsm.receiving = true → ∀ a, a < s.xfc.cnt.toNat → s.xfc.buf.read a = s'.xfc.buf.read a)

end Sys2Proof.Machine
end

