-- ==== Sys2Proof/Certificates/Slice0/Obligations.lean ====
section
/-! DEFINITION. The statements about XFC, from the numbered rules of spec/. Each docstring names the rule. -/

open Sys2Proof Sys2Proof.Machine

/-! ## Encoding -/

/-- Words written out from the opcode map of R73, one or more for each group of commands, decode to what they stand for. -/
def Obligations.WordsOfTheOpcodeMapDecode : Prop :=
  decode 0b0000000000000000#16 = .ok .nop ∧
  decode 0b0000000100000000#16 = .ok .init ∧
  decode 0b0000100000000110#16 = .ok (.rd .stat) ∧
  decode 0b0001000111111111#16 = .ok (.sumbyte 0xFF#8) ∧
  decode 0b0010000100010010#16 = .ok (.crcbyte 0x12#8) ∧
  decode 0b0011000000000001#16 = .ok (.setmode .crc16) ∧
  decode 0b0100000000000000#16 = .ok (.txbegin .soh) ∧
  decode 0b0100001000000000#16 = .ok .txpad ∧
  decode 0b0101000000000001#16 = .ok (.rxbyte 0x01#8)

/-- Decoding gives back every encoded command, with every value of every operand. -/
def Obligations.DecodeOfEncodeIsTheCommand : Prop :=
  ∀ i : Instr, decode (encode i) = .ok i

/-- R73, R78: the rows of the opcode map are disjoint; a word a row accepts decodes to a command of that row, whose
encoding is the word; a word no row accepts is illegal. -/
def Obligations.DecoderFollowsTheOpcodeMap : Prop :=
  (∀ w : Word, ∀ r ∈ opcodeTable, ∀ r' ∈ opcodeTable, r.accepts w = true → r'.accepts w = true → r = r') ∧
  (∀ w : Word, ∀ r ∈ opcodeTable, r.accepts w = true →
    ∃ i, decode w = .ok i ∧ i.mnemonic = r.mnemonic ∧ encode i = w) ∧
  (∀ w : Word, (∀ r ∈ opcodeTable, r.accepts w = false) → ∃ e, decode w = .error e)

/-- R75, R76: a word decodes to a command exactly when its op is one of the seventeen assigned values and its arg is
legal for that op's format, as WellFormed.lean checks it without the decoder; 1556 words do; every other word has the
one effect: ERR <- ILLEGAL when ERR = NONE, nothing when the latch is set. -/
def Obligations.LegalWordsAreTheAssignedOnes : Prop :=
  (∀ w : Word, (∃ i, decode w = .ok i) ↔ (rawCommand w).wellFormed = true) ∧
  (∃ ws : List Word, ws.Nodup ∧ ws.length = 1556 ∧ ∀ w, w ∈ ws ↔ ∃ i, decode w = .ok i) ∧
  (∀ (s : State) (w : Word) (rest : List HostEvent), s.input = .command w :: rest → (¬ ∃ i, decode w = .ok i) →
    (s.xfc.err = .none → step s = .next { s with input := rest, xfc := { s.xfc with err := .illegal } }) ∧
    (s.xfc.err ≠ .none → step s = .next { s with input := rest }))

/-- R79: the line the syntax writes for a command assembles to that command. What R79 leaves open of the text is the
model's choice (log 15). -/
def Obligations.AssemblerReadsEveryCommandLine : Prop :=
  ∀ i : Instr, assembleLine (commandText i) = some [i]

/-- R80: the pseudo-instructions expand as the table shows. -/
def Obligations.PseudoInstructionsExpandAsListed : Prop :=
  Pseudo.sumrd.expand = some [.rd .sum] ∧ Pseudo.crcrd.expand = some [.rd .crc] ∧
  Pseudo.statrd.expand = some [.rd .stat] ∧
  (∀ bs : List Byte, (Pseudo.checksum bs).expand = some (.sumclr :: (bs.map .sumbyte ++ [.rd .sum]))) ∧
  (∀ bs : List Byte, (Pseudo.crc16 bs).expand = some (.crcclr :: (bs.map .crcbyte ++ [.rd .crc]))) ∧
  (∀ (k : BlockKind) (bs : List Byte), 1 ≤ bs.length → bs.length < size k →
    (Pseudo.txframe k bs).expand = some (.txbegin k :: (bs.map .txdata ++ [.txpad]))) ∧
  (∀ (k : BlockKind) (bs : List Byte), bs.length = size k →
    (Pseudo.txframe k bs).expand = some (.txbegin k :: bs.map .txdata)) ∧
  (∀ bs : List Byte, (Pseudo.rxframe bs).expand = some (bs.map .rxbyte))

/-! ## Step and reset -/

/-- R231: a step takes the oldest word offered and executes the command it decodes to; an illegal word sets ERR to
ILLEGAL when ERR = NONE and is ignored otherwise. The host's fetch word is that word. That what the host offers stands in
the state is the model's choice (log 6). -/
def Obligations.StepExecutesTheDecodedCommand : Prop :=
  (∀ (s : State) (w : Word) (rest : List HostEvent), s.input = .command w :: rest →
    (∀ i, decode w = .ok i → step s = exec i { s with input := rest }) ∧
    (∀ e, decode w = .error e →
      (s.xfc.err = .none → step s = .next { s with input := rest, xfc := { s.xfc with err := .illegal } }) ∧
      (s.xfc.err ≠ .none → step s = .next { s with input := rest }))) ∧
  (∀ (s : State) (nbits w : Nat) (i : Instr), decodeTableWord nbits w = some i →
    step (s.withFetchWord nbits w) = exec i s)

/-- R252: with no command offered the state does not change. -/
def Obligations.NothingOfferedChangesNothing : Prop :=
  ∀ s : State, s.input = [] → step s = .next s

/-- From R37: an assertion of rst and INIT set every item but BUF to the table's value; INIT leaves BUF unchanged. From
R262 and R186: bytes already emitted are not recalled. That an rst keeps all three streams, rsp included, is the model's
reading (log 7). -/
def Obligations.ResetAndInitSetTheTableOfResetValues : Prop :=
  (∀ (s : State) (rest : List HostEvent), s.input = .rst :: rest →
    ∃ t, step s = .next t ∧ t.xfc.AtResetValues ∧ t.input = rest ∧ t.tx = s.tx ∧ t.rx = s.rx ∧ t.rsp = s.rsp) ∧
  (∀ s : State, ∃ t, exec .init s = .next t ∧ t.xfc.AtResetValues ∧ t.xfc.buf = s.xfc.buf ∧ t.input = s.input ∧
    t.tx = s.tx ∧ t.rx = s.rx ∧ t.rsp = s.rsp)

/-- The state after reset holds the values of R261, both level outputs are 0 and the three streams are empty, which the
model reads of State.reset (log 7). -/
def Obligations.ResetStateHoldsTheStatedValues : Prop :=
  State.reset.xfc.AtResetValues ∧ State.reset.busyOut = false ∧ State.reset.faultOut = false ∧
    State.reset.tx = [] ∧ State.reset.rx = [] ∧ State.reset.rsp = []

/-- The codes of FSM (R28), ERR (R234) and RXRES (R240), and the level outputs (R41). -/
def Obligations.StatusCodesAndLevelsAreAsListed : Prop :=
  Fsm.idle.code = 0#3 ∧ Fsm.txpayload.code = 1#3 ∧ Fsm.rxseq.code = 2#3 ∧ Fsm.rxcmpl.code = 3#3 ∧
  Fsm.rxpayload.code = 4#3 ∧ Fsm.rxtrl1.code = 5#3 ∧ Fsm.rxtrl2.code = 6#3 ∧
  Err.none.code = 0#3 ∧ Err.illegal.code = 1#3 ∧ Err.busy.code = 2#3 ∧ Err.phase.code = 3#3 ∧
  Err.nomode.code = 4#3 ∧ Err.modelock.code = 5#3 ∧
  RxRes.none.code = 0#3 ∧ RxRes.ok.code = 1#3 ∧ RxRes.badcmpl.code = 2#3 ∧ RxRes.badseq.code = 3#3 ∧
  RxRes.badtrl.code = 4#3 ∧ RxRes.nohdr.code = 5#3 ∧
  ∀ s : State, (s.busyOut = true ↔ s.xfc.fsm ≠ .idle) ∧ (s.faultOut = true ↔ s.xfc.err ≠ .none)

/-! ## System commands -/

/-- R185. -/
def Obligations.NopChangesNothing : Prop :=
  decode 0x0000#16 = .ok .nop ∧ ∀ s : State, exec .nop s = .next s

/-- R186. -/
def Obligations.InitStartsAFreshSession : Prop :=
  decode 0x0100#16 = .ok .init ∧
  ∀ s : State, exec .init s = .next
    { s with xfc :=
      { sum := 0x00#8, crc := 0x0000#16, seq := 0x01#8, pad := 0x1A#8, modev := false, mode := .checksum,
        blk := .soh, cnt := 0#11, fsm := .idle, err := .none, rxres := .none, rseq := 0x00#8, rcmp := 0x00#8,
        rth := 0x00#8, buf := s.xfc.buf } }

/-- R187. -/
def Obligations.ErrclrReleasesTheLatchAndNothingElse : Prop :=
  decode 0x0200#16 = .ok .errclr ∧
  ∀ s : State, exec .errclr s = .next { s with xfc := { s.xfc with err := .none } }

/-- R188. -/
def Obligations.AbortAbandonsTheFrame : Prop :=
  decode 0x0300#16 = .ok .abort ∧
  ∀ s : State,
    (s.xfc.err = .none → exec .abort s = .next { s with xfc := { s.xfc with fsm := .idle, cnt := 0#11 } }) ∧
    (s.xfc.err ≠ .none → exec .abort s = .next s)

/-- R189: RD r answers one value, whose bits are those of the view, and changes nothing. -/
def Obligations.RdAnswersTheViewAndChangesNothing : Prop :=
  (∀ r : RegView, decode (0x0800#16 + (r.number.setWidth 16)) = .ok (.rd r)) ∧
  (∀ w : Word, 0x0808#16 ≤ w → w ≤ 0x08FF#16 → ∃ e, decode w = .error e) ∧
  ∀ (r : RegView) (s : State), ∃ v : Word, exec (.rd r) s = .next { s with rsp := s.rsp ++ [v] } ∧
    match r with
    | .crc => v = s.xfc.crc
    | .sum => v.toNat = s.xfc.sum.toNat
    | .seq => v.toNat = s.xfc.seq.toNat
    | .pad => v.toNat = s.xfc.pad.toNat
    | .ctrl => v.getLsbD 0 = decide (s.xfc.mode = .crc16) ∧ v.getLsbD 1 = s.xfc.modev ∧
        v.getLsbD 2 = decide (s.xfc.blk = .stx) ∧ v.toNat < 8
    | .cnt => v.toNat = s.xfc.cnt.toNat
    | .stat => v.toNat = s.xfc.fsm.code.toNat + 8 * s.xfc.err.code.toNat + 64 * s.xfc.rxres.code.toNat
    | .rxsc => v.toNat = s.xfc.rseq.toNat + 256 * s.xfc.rcmp.toNat

/-! ## Checksum unit -/

/-- R102. -/
def Obligations.SumclrClearsTheChecksum : Prop :=
  decode 0x1000#16 = .ok .sumclr ∧
  ∀ s : State, s.xfc.err = .none →
    (s.xfc.fsm = .idle → exec .sumclr s = .next { s with xfc := { s.xfc with sum := 0x00#8 } }) ∧
    (s.xfc.fsm ≠ .idle → exec .sumclr s = .next { s with xfc := { s.xfc with err := .busy } })

/-- R103. -/
def Obligations.SumbyteAddsModulo256 : Prop :=
  (∀ b : Byte, decode (0x1100#16 + b.setWidth 16) = .ok (.sumbyte b)) ∧
  ∀ (b : Byte) (s : State), s.xfc.err = .none →
    (s.xfc.fsm = .idle → exec (.sumbyte b) s = .next { s with xfc := { s.xfc with
      sum := BitVec.ofNat 8 ((s.xfc.sum.toNat + b.toNat) % 256) } }) ∧
    (s.xfc.fsm ≠ .idle → exec (.sumbyte b) s = .next { s with xfc := { s.xfc with err := .busy } })

/-- R101: the running sum is the checksum, and its consequences (a) to (d). -/
def Obligations.ChecksumIsTheRunningSumAndAdditive : Prop :=
  (∀ s b : Byte, (sumStep s b).toNat = (s.toNat + b.toNat) % 256) ∧
  (∀ p : List Byte, checksum p = p.foldl sumStep 0x00#8) ∧
  (∀ p q : List Byte, (checksum (p ++ q)).toNat = ((checksum p).toNat + (checksum q).toNat) % 256) ∧
  (∀ p q : List Byte, p.Perm q → checksum p = checksum q) ∧
  (∀ s : Byte, sumStep s 0x00#8 = s) ∧
  (∀ b : Byte, checksum (List.replicate 256 b) = 0x00#8) ∧
  checksum (List.replicate 128 0x1A#8) = 0x00#8

/-- R104: SUMCLR, the bytes, RD SUM answers the checksum; SUMCLR may be left out when SUM is 0. -/
def Obligations.ChecksumCommandsAnswerTheChecksum : Prop :=
  ∀ (p : List Byte) (s : State), s.xfc.err = .none → s.xfc.fsm = .idle →
    runCommands (.sumclr :: (p.map .sumbyte ++ [.rd .sum])) s =
      .next { s with xfc := { s.xfc with sum := checksum p }, rsp := s.rsp ++ [(checksum p).setWidth 16] } ∧
    (s.xfc.sum = 0x00#8 → runCommands (p.map .sumbyte ++ [.rd .sum]) s =
      .next { s with xfc := { s.xfc with sum := checksum p }, rsp := s.rsp ++ [(checksum p).setWidth 16] })

/-- R106: the source's two values. -/
def Obligations.ChecksumOfTheSourceExamples : Prop :=
  checksum [0x01#8, 0xFF#8] = 0x00#8 ∧ checksum [0x01#8, 0x02#8, 0x03#8] = 6#8

/-! ## CRC unit -/

/-- R114. -/
def Obligations.CrcclrClearsTheCrc : Prop :=
  decode 0x2000#16 = .ok .crcclr ∧
  ∀ s : State, s.xfc.err = .none →
    (s.xfc.fsm = .idle → exec .crcclr s = .next { s with xfc := { s.xfc with crc := 0x0000#16 } }) ∧
    (s.xfc.fsm ≠ .idle → exec .crcclr s = .next { s with xfc := { s.xfc with err := .busy } })

/-- R115: the eight bit steps of R111 and R112 written out on the register. -/
def Obligations.CrcbyteFeedsEightBits : Prop :=
  (∀ b : Byte, decode (0x2100#16 + b.setWidth 16) = .ok (.crcbyte b)) ∧
  (∀ (b : Byte) (s : State), s.xfc.err = .none →
    (s.xfc.fsm = .idle → exec (.crcbyte b) s = .next { s with xfc := { s.xfc with
      crc := crcBit (crcBit (crcBit (crcBit (crcBit (crcBit (crcBit (crcBit s.xfc.crc (b.getLsbD 7)) (b.getLsbD 6))
        (b.getLsbD 5)) (b.getLsbD 4)) (b.getLsbD 3)) (b.getLsbD 2)) (b.getLsbD 1)) (b.getLsbD 0) } }) ∧
    (s.xfc.fsm ≠ .idle → exec (.crcbyte b) s = .next { s with xfc := { s.xfc with err := .busy } })) ∧
  crcByte 0x0000#16 0x00#8 = 0x0000#16 ∧ crcByte 0x0000#16 0x01#8 = 0x1021#16 ∧
  crcByte 0x0000#16 0x80#8 = 0x9188#16 ∧ crcByte 0x0000#16 0xFF#8 = 0x1EF0#16 ∧
  crcByte 0xFFFF#16 0x00#8 = 0xE1F0#16 ∧ crcByte 0x8000#16 0x00#8 = 0x9188#16 ∧
  crcByte 0x1234#16 0xAB#8 = 0x02F2#16

/-- R111, R112: the bit step; the byte step, bit 7 first; the byte step's equal form, which puts the whole byte in
first. -/
def Obligations.CrcByteEqualsTheByteFirstForm : Prop :=
  (∀ (c : Word) (d : Bool), crcBit c d =
    if (c.getLsbD 15 ^^ d) then (c.extractLsb' 0 15 ++ 0#1) ^^^ 0x1021#16 else c.extractLsb' 0 15 ++ 0#1) ∧
  (∀ (c : Word) (b : Byte), crcByte c b =
    crcBit (crcBit (crcBit (crcBit (crcBit (crcBit (crcBit (crcBit c (b.getLsbD 7)) (b.getLsbD 6)) (b.getLsbD 5))
      (b.getLsbD 4)) (b.getLsbD 3)) (b.getLsbD 2)) (b.getLsbD 1)) (b.getLsbD 0)) ∧
  ∀ (c : Word) (b : Byte), crcByte c b =
    (fun r : Word => if r.getLsbD 15 then (r <<< 1) ^^^ 0x1021#16 else r <<< 1)^[8] (c ^^^ (b ++ 0x00#8))

/-- R118: linearity, invisible leading zeros, zero residue, bijectivity. -/
def Obligations.CrcLinearityResidueAndBijectivity : Prop :=
  (∀ p q : List Byte, p.length = q.length →
    crc16 (List.zipWith (fun a b => a ^^^ b) p q) = crc16 p ^^^ crc16 q) ∧
  (∀ p : List Byte, crc16 (0x00#8 :: p) = crc16 p) ∧
  (∀ n : Nat, crc16 (List.replicate n 0x00#8) = 0x0000#16) ∧
  (∀ p : List Byte, crc16 (p ++ [hiByte (crc16 p), loByte (crc16 p)]) = 0x0000#16) ∧
  (∀ b : Byte, Function.Bijective (fun c => crcByte c b)) ∧
  (∀ c : Word, Function.Injective (fun b => crcByte c b))

/-- R116: CRCCLR, the bytes, RD CRC answers the CRC; CRCCLR may be left out when CRC is 0. -/
def Obligations.CrcCommandsAnswerTheCrc : Prop :=
  ∀ (p : List Byte) (s : State), s.xfc.err = .none → s.xfc.fsm = .idle →
    runCommands (.crcclr :: (p.map .crcbyte ++ [.rd .crc])) s =
      .next { s with xfc := { s.xfc with crc := crc16 p }, rsp := s.rsp ++ [crc16 p] } ∧
    (s.xfc.crc = 0x0000#16 → runCommands (p.map .crcbyte ++ [.rd .crc]) s =
      .next { s with xfc := { s.xfc with crc := crc16 p }, rsp := s.rsp ++ [crc16 p] })

/-- R121: the trace of the source's reference vector, byte by byte, and of its first byte bit by bit; its residue. -/
def Obligations.CrcTraceOfTheReferenceVector : Prop :=
  crcByte 0x0000#16 0x12#8 = 0x3273#16 ∧ crcByte 0x3273#16 0x34#8 = 0x13C6#16 ∧
  crcByte 0x13C6#16 0x56#8 = 0xDE61#16 ∧ crcByte 0xDE61#16 0x78#8 = 0xB42C#16 ∧
  crcByte 0xB42C#16 0x09#8 = 0x5A76#16 ∧ crc16 [0x12#8, 0x34#8, 0x56#8, 0x78#8, 0x09#8] = 0x5A76#16 ∧
  crcBit 0x0000#16 false = 0x0000#16 ∧ crcBit 0x0000#16 true = 0x1021#16 ∧ crcBit 0x1021#16 false = 0x2042#16 ∧
  crcBit 0x2042#16 false = 0x4084#16 ∧ crcBit 0x4084#16 true = 0x9129#16 ∧ crcBit 0x9129#16 false = 0x3273#16 ∧
  crcByte 0x5A76#16 0x5A#8 = 0x7600#16 ∧ crcByte 0x7600#16 0x76#8 = 0x0000#16

/-! ## Session registers -/

/-- R126. -/
def Obligations.SetmodeChoosesTheModeOnce : Prop :=
  decode 0x3000#16 = .ok (.setmode .checksum) ∧ decode 0x3001#16 = .ok (.setmode .crc16) ∧
  (∀ w : Word, 0x3002#16 ≤ w → w ≤ 0x30FF#16 → ∃ e, decode w = .error e) ∧
  ∀ (m : Mode) (s : State), s.xfc.err = .none →
    (s.xfc.fsm = .idle → s.xfc.modev = false →
      exec (.setmode m) s = .next { s with xfc := { s.xfc with modev := true, mode := m } }) ∧
    (s.xfc.fsm = .idle → s.xfc.modev = true →
      exec (.setmode m) s = .next { s with xfc := { s.xfc with err := .modelock } }) ∧
    (s.xfc.fsm ≠ .idle → exec (.setmode m) s = .next { s with xfc := { s.xfc with err := .busy } })

/-- R129. -/
def Obligations.SetseqWritesTheSequenceNumber : Prop :=
  (∀ v : Byte, decode (0x3100#16 + v.setWidth 16) = .ok (.setseq v)) ∧
  ∀ (v : Byte) (s : State), s.xfc.err = .none →
    (s.xfc.fsm = .idle → exec (.setseq v) s = .next { s with xfc := { s.xfc with seq := v } }) ∧
    (s.xfc.fsm ≠ .idle → exec (.setseq v) s = .next { s with xfc := { s.xfc with err := .busy } })

/-- R130. -/
def Obligations.SeqnextAdvancesModulo256 : Prop :=
  decode 0x3200#16 = .ok .seqnext ∧
  ∀ s : State, s.xfc.err = .none →
    (s.xfc.fsm = .idle → exec .seqnext s = .next { s with xfc := { s.xfc with
      seq := BitVec.ofNat 8 ((s.xfc.seq.toNat + 1) % 256) } }) ∧
    (s.xfc.fsm ≠ .idle → exec .seqnext s = .next { s with xfc := { s.xfc with err := .busy } })

/-- R132. -/
def Obligations.SetpadWritesThePadByte : Prop :=
  (∀ v : Byte, decode (0x3300#16 + v.setWidth 16) = .ok (.setpad v)) ∧
  ∀ (v : Byte) (s : State), s.xfc.err = .none →
    (s.xfc.fsm = .idle → exec (.setpad v) s = .next { s with xfc := { s.xfc with pad := v } }) ∧
    (s.xfc.fsm ≠ .idle → exec (.setpad v) s = .next { s with xfc := { s.xfc with err := .busy } })

/-- From R127: whatever commands but INIT are issued, a chosen mode stays, and no frame is open without one. -/
def Obligations.ModeIsFixedForTheSession : Prop :=
  (∀ (is : List Instr) (s t : State), .init ∉ is → s.xfc.modev = true → runCommands is s = .next t →
    t.xfc.modev = true ∧ t.xfc.mode = s.xfc.mode) ∧
  (∀ (is : List Instr) (s t : State), (s.xfc.fsm ≠ .idle → s.xfc.modev = true) → runCommands is s = .next t →
    (t.xfc.fsm ≠ .idle → t.xfc.modev = true))

/-! ## Transmit framer -/

/-- R141. -/
def Obligations.TxbeginOpensAFrame : Prop :=
  decode 0x4000#16 = .ok (.txbegin .soh) ∧ decode 0x4001#16 = .ok (.txbegin .stx) ∧
  (∀ w : Word, 0x4002#16 ≤ w → w ≤ 0x40FF#16 → ∃ e, decode w = .error e) ∧
  ∀ (k : BlockKind) (s : State), s.xfc.err = .none →
    (s.xfc.fsm = .idle → s.xfc.modev = true → exec (.txbegin k) s = .next { s with
      xfc := { s.xfc with blk := k, cnt := 0#11, sum := 0x00#8, crc := 0x0000#16, fsm := .txpayload }
      tx := s.tx ++ [match k with | .soh => 0x01#8 | .stx => 0x02#8, s.xfc.seq, 0xFF#8 - s.xfc.seq] }) ∧
    (s.xfc.fsm = .idle → s.xfc.modev = false →
      exec (.txbegin k) s = .next { s with xfc := { s.xfc with err := .nomode } }) ∧
    (s.xfc.fsm ≠ .idle → exec (.txbegin k) s = .next { s with xfc := { s.xfc with err := .busy } })

/-- R143: one payload byte; the trailer and IDLE after the last. That CNT < size(BLK) in TXPAYLOAD is R39(d), the clause
Inv.txCount; ModelChoicesOutsideTheInvariant says what happens in the other states. -/
def Obligations.TxdataEmitsAByteAndTheTrailerAfterTheLast : Prop :=
  (∀ b : Byte, decode (0x4100#16 + b.setWidth 16) = .ok (.txdata b)) ∧
  ∀ (b : Byte) (s : State), s.xfc.err = .none →
    (s.xfc.fsm = .txpayload → s.xfc.cnt.toNat + 1 < size s.xfc.blk → exec (.txdata b) s = .next { s with
      xfc := { s.xfc with sum := s.xfc.sum + b, crc := crcByte s.xfc.crc b, cnt := s.xfc.cnt + 1#11 }
      tx := s.tx ++ [b] }) ∧
    (s.xfc.fsm = .txpayload → s.xfc.cnt.toNat + 1 = size s.xfc.blk → exec (.txdata b) s = .next { s with
      xfc := { s.xfc with
        sum := s.xfc.sum + b, crc := crcByte s.xfc.crc b, cnt := s.xfc.cnt + 1#11, fsm := .idle }
      tx := s.tx ++ [b] ++ match s.xfc.mode with
        | .checksum => [s.xfc.sum + b]
        | .crc16 => [(crcByte s.xfc.crc b).extractLsb' 8 8, (crcByte s.xfc.crc b).extractLsb' 0 8] }) ∧
    (s.xfc.fsm ≠ .txpayload → exec (.txdata b) s = .next { s with xfc := { s.xfc with err := .phase } })

/-- R145: TXPAD is exactly the remaining number of TXDATA PAD, one after the other, and ends with CNT = size(BLK) and
FSM = IDLE; elsewhere it is rejected. The premise CNT < size(BLK) is R39(d). -/
def Obligations.TxpadEqualsTheRemainingTxdataOfPad : Prop :=
  decode 0x4200#16 = .ok .txpad ∧
  ∀ s : State, s.xfc.err = .none →
    (s.xfc.fsm = .txpayload → s.xfc.cnt.toNat < size s.xfc.blk →
      exec .txpad s = runCommands (List.replicate (size s.xfc.blk - s.xfc.cnt.toNat) (.txdata s.xfc.pad)) s ∧
      ∃ t, exec .txpad s = .next t ∧ t.xfc.fsm = .idle ∧ t.xfc.cnt.toNat = size s.xfc.blk) ∧
    (s.xfc.fsm ≠ .txpayload → exec .txpad s = .next { s with xfc := { s.xfc with err := .phase } })

/-- What TXPAD emits and leaves, in closed form (from R142, R145). -/
def Obligations.TxpadFillsEmitsTheTrailerAndCloses : Prop :=
  ∀ s : State, s.xfc.err = .none → s.xfc.fsm = .txpayload → s.xfc.cnt.toNat < size s.xfc.blk →
    exec .txpad s =
      (fun (pads : List Byte) (sum : Byte) (crc : Word) => Host.Outcome.next { s with
        xfc := { s.xfc with sum := sum, crc := crc, cnt := BitVec.ofNat 11 (size s.xfc.blk), fsm := .idle }
        tx := s.tx ++ pads ++ match s.xfc.mode with
          | .checksum => [sum]
          | .crc16 => [crc.extractLsb' 8 8, crc.extractLsb' 0 8] })
      (List.replicate (size s.xfc.blk - s.xfc.cnt.toNat) s.xfc.pad)
      (s.xfc.sum + checksum (List.replicate (size s.xfc.blk - s.xfc.cnt.toNat) s.xfc.pad))
      ((List.replicate (size s.xfc.blk - s.xfc.cnt.toNat) s.xfc.pad).foldl crcByte s.xfc.crc)

/-- R83: the complement byte, and that the width of the sum does not matter to the check. -/
def Obligations.ComplementByteAndItsCheck : Prop :=
  (∀ (seq : Byte) (q : List Byte) (mode : Mode) (f : List Byte), encodeFrame seq q mode = some f →
    f[1]? = some seq ∧ f[2]? = some (0xFF#8 - seq)) ∧
  (∀ seq : Byte, seq.toNat + (0xFF#8 - seq).toNat = 0xFF ∧ 0xFF#8 - seq = ~~~seq) ∧
  (∀ a b : Byte, a.toNat + b.toNat = 0xFF ↔ a + b = 0xFF#8) ∧
  complement 0x01#8 = 0xFE#8 ∧ complement 0x00#8 = 0xFF#8 ∧ complement 0xFF#8 = 0x00#8 ∧ complement 0x80#8 = 0x7F#8

/-- R81: the layout of an encoded frame and its lengths. -/
def Obligations.EncodedFrameLayout : Prop :=
  ∀ (k : BlockKind) (seq : Byte) (q : List Byte) (mode : Mode), q.length = size k →
    ∃ f, encodeFrame seq q mode = some f ∧
      f.length = (match k, mode with
        | .soh, .checksum => 132
        | .soh, .crc16 => 133
        | .stx, .checksum => 1028
        | .stx, .crc16 => 1029) ∧
      f[0]? = some (match k with | .soh => 0x01#8 | .stx => 0x02#8) ∧ f[1]? = some seq ∧
      f[2]? = some (0xFF#8 - seq) ∧
      (f.drop 3).take (size k) = q ∧
      f.drop (3 + size k) = match mode with
        | .checksum => [checksum q]
        | .crc16 => [(crc16 q).extractLsb' 8 8, (crc16 q).extractLsb' 0 8]

/-- R146: the transmit commands emit exactly the encoded frame of the padded payload. -/
def Obligations.TransmitCommandsEmitTheEncodedFrame : Prop :=
  ∀ (k : BlockKind) (p : List Byte) (s : State),
    s.xfc.err = .none → s.xfc.fsm = .idle → s.xfc.modev = true → p.length ≤ size k →
    ∃ f, encodeFrame s.xfc.seq (p ++ List.replicate (size k - p.length) s.xfc.pad) s.xfc.mode = some f ∧
      runCommands (.txbegin k :: (p.map .txdata ++ if p.length < size k then [.txpad] else [])) s = .next { s with
        xfc := { s.xfc with
          fsm := .idle
          cnt := BitVec.ofNat 11 (size k)
          blk := k
          sum := checksum (p ++ List.replicate (size k - p.length) s.xfc.pad)
          crc := crc16 (p ++ List.replicate (size k - p.length) s.xfc.pad) }
        tx := s.tx ++ f }

/-- From R131: with one SEQNEXT after each frame, the n-th frame, of either kind, carries sequence number n mod 256. -/
def Obligations.SuccessiveFramesAreNumberedModulo256 : Prop :=
  ∀ (frames : List (BlockKind × List Byte)) (s : State),
    s.xfc.err = .none → s.xfc.fsm = .idle → s.xfc.modev = true → s.xfc.seq = 0x01#8 →
    (∀ f ∈ frames, f.2.length ≤ size f.1) →
    ∃ t, runCommands (frames.flatMap fun f => txFrameCommands f.1 f.2 ++ [.seqnext]) s = .next t ∧
      t.xfc.seq = BitVec.ofNat 8 ((frames.length + 1) % 256) ∧
      t.tx = s.tx ++ frames.zipIdx.flatMap fun fn =>
        (encodeFrame (BitVec.ofNat 8 ((fn.2 + 1) % 256))
          (fn.1.2 ++ List.replicate (size fn.1.1 - fn.1.2.length) s.xfc.pad) s.xfc.mode).getD []

/-! ## Receive validator -/

/-- R160 (its preconditions), R161, R162: RXBYTE in IDLE and in TXPAYLOAD. -/
def Obligations.RxbyteOpensAFrameOrReportsNoHeader : Prop :=
  (∀ b : Byte, decode (0x5000#16 + b.setWidth 16) = .ok (.rxbyte b)) ∧
  ∀ (b : Byte) (s : State), s.xfc.err = .none →
    (s.xfc.fsm = .txpayload → exec (.rxbyte b) s = .next { s with xfc := { s.xfc with err := .phase } }) ∧
    (s.xfc.fsm = .idle → s.xfc.modev = false →
      exec (.rxbyte b) s = .next { s with xfc := { s.xfc with err := .nomode } }) ∧
    (s.xfc.fsm = .idle → s.xfc.modev = true → b = 0x01#8 → exec (.rxbyte b) s = .next { s with xfc := { s.xfc with
      blk := .soh, cnt := 0#11, sum := 0x00#8, crc := 0x0000#16, rxres := .none, fsm := .rxseq } }) ∧
    (s.xfc.fsm = .idle → s.xfc.modev = true → b = 0x02#8 → exec (.rxbyte b) s = .next { s with xfc := { s.xfc with
      blk := .stx, cnt := 0#11, sum := 0x00#8, crc := 0x0000#16, rxres := .none, fsm := .rxseq } }) ∧
    (s.xfc.fsm = .idle → s.xfc.modev = true → b ≠ 0x01#8 → b ≠ 0x02#8 →
      exec (.rxbyte b) s = .next { s with xfc := { s.xfc with rxres := .nohdr } })

/-- R163, R164, R167: the bytes that are only held. -/
def Obligations.RxbyteHoldsSequenceComplementAndHighCrcByte : Prop :=
  ∀ (b : Byte) (s : State), s.xfc.err = .none →
    (s.xfc.fsm = .rxseq → exec (.rxbyte b) s = .next { s with xfc := { s.xfc with rseq := b, fsm := .rxcmpl } }) ∧
    (s.xfc.fsm = .rxcmpl → exec (.rxbyte b) s = .next { s with xfc := { s.xfc with rcmp := b, fsm := .rxpayload } }) ∧
    (s.xfc.fsm = .rxtrl1 → s.xfc.mode = .crc16 →
      exec (.rxbyte b) s = .next { s with xfc := { s.xfc with rth := b, fsm := .rxtrl2 } })

/-- R165: one payload byte is stored at CNT, accumulated and counted; the last one moves on to the trailer. That CNT is an
address of BUF in RXPAYLOAD is R39(f) and R52. -/
def Obligations.RxbyteStoresAPayloadByte : Prop :=
  ∀ (b : Byte) (s : State), s.xfc.err = .none → s.xfc.fsm = .rxpayload → s.xfc.cnt.toNat < 1024 →
    ∃ m : Memory, m.read s.xfc.cnt.toNat = b ∧ (∀ a, a ≠ s.xfc.cnt.toNat → m.read a = s.xfc.buf.read a) ∧
      exec (.rxbyte b) s = .next { s with xfc := { s.xfc with
        buf := m, sum := s.xfc.sum + b, crc := crcByte s.xfc.crc b, cnt := s.xfc.cnt + 1#11,
        fsm := if (s.xfc.cnt + 1#11).toNat = size s.xfc.blk then .rxtrl1 else .rxpayload } }

/-- The model's choices in states that no run reaches, in which the step is still total (R8): RXBYTE in RXPAYLOAD with CNT
of 1024 or more stores at the low ten bits of CNT (log 3); TXPAD with CNT at or above size(BLK) emits the trailer only
(log 4); CNT + 1 is taken modulo 2048 (log 5). -/
def Obligations.ModelChoicesOutsideTheInvariant : Prop :=
  (∀ (b : Byte) (s : State), s.xfc.err = .none → s.xfc.fsm = .rxpayload → 1024 ≤ s.xfc.cnt.toNat →
    ∃ m : Memory, m.read (s.xfc.cnt.toNat - 1024) = b ∧
      (∀ a, a ≠ s.xfc.cnt.toNat - 1024 → m.read a = s.xfc.buf.read a) ∧
      exec (.rxbyte b) s = .next { s with xfc := { s.xfc with
        buf := m, sum := s.xfc.sum + b, crc := crcByte s.xfc.crc b,
        cnt := BitVec.ofNat 11 ((s.xfc.cnt.toNat + 1) % 2048) } }) ∧
  (∀ (b : Byte) (s : State), s.xfc.err = .none → s.xfc.fsm = .txpayload → size s.xfc.blk ≤ s.xfc.cnt.toNat →
    exec (.txdata b) s = .next { s with
      xfc := { s.xfc with
        sum := s.xfc.sum + b, crc := crcByte s.xfc.crc b, cnt := BitVec.ofNat 11 ((s.xfc.cnt.toNat + 1) % 2048) }
      tx := s.tx ++ [b] }) ∧
  (∀ s : State, s.xfc.err = .none → s.xfc.fsm = .txpayload → size s.xfc.blk ≤ s.xfc.cnt.toNat →
    exec .txpad s = .next { s with
      xfc := { s.xfc with fsm := .idle }
      tx := s.tx ++ match s.xfc.mode with
        | .checksum => [s.xfc.sum]
        | .crc16 => [s.xfc.crc.extractLsb' 8 8, s.xfc.crc.extractLsb' 0 8] })

/-- R166, R168, R169: the trailer byte that ends a frame gives the verdict, first failing check in the order
complement, sequence, trailer; the payload is released, in order, only when all three hold. -/
def Obligations.VerdictChecksComplementSequenceTrailer : Prop :=
  ∀ (b : Byte) (s : State) (trailerOk : Prop), s.xfc.err = .none →
    ((s.xfc.fsm = .rxtrl1 ∧ s.xfc.mode = .checksum ∧ (trailerOk ↔ b = s.xfc.sum)) ∨
      (s.xfc.fsm = .rxtrl2 ∧ (trailerOk ↔ 256 * s.xfc.rth.toNat + b.toNat = s.xfc.crc.toNat))) →
    (s.xfc.rseq.toNat + s.xfc.rcmp.toNat ≠ 0xFF →
      exec (.rxbyte b) s = .next { s with xfc := { s.xfc with rxres := .badcmpl, fsm := .idle } }) ∧
    (s.xfc.rseq.toNat + s.xfc.rcmp.toNat = 0xFF → s.xfc.rseq ≠ s.xfc.seq →
      exec (.rxbyte b) s = .next { s with xfc := { s.xfc with rxres := .badseq, fsm := .idle } }) ∧
    (s.xfc.rseq.toNat + s.xfc.rcmp.toNat = 0xFF → s.xfc.rseq = s.xfc.seq → ¬ trailerOk →
      exec (.rxbyte b) s = .next { s with xfc := { s.xfc with rxres := .badtrl, fsm := .idle } }) ∧
    (s.xfc.rseq.toNat + s.xfc.rcmp.toNat = 0xFF → s.xfc.rseq = s.xfc.seq → trailerOk →
      exec (.rxbyte b) s = .next { s with
        xfc := { s.xfc with rxres := .ok, fsm := .idle }
        rx := s.rx ++ (List.range (size s.xfc.blk)).map fun a => s.xfc.buf.read a })

/-- R171: feeding a whole frame gives what decode_and_validate gives. -/
def Obligations.ReceiveCommandsDecodeAndValidateTheFrame : Prop :=
  ∀ (k : BlockKind) (seq cmpl : Byte) (payload trl : List Byte) (s : State),
    s.xfc.err = .none → s.xfc.fsm = .idle → s.xfc.modev = true →
    payload.length = size k → trl.length = tlen s.xfc.mode →
    ∃ (result : Except RxRes (List Byte)) (t : State),
      decodeAndValidate (hdr k :: seq :: cmpl :: (payload ++ trl)) s.xfc.seq s.xfc.mode = some result ∧
      runCommands ((hdr k :: seq :: cmpl :: (payload ++ trl)).map .rxbyte) s = .next t ∧
      t.tx = s.tx ∧ t.rsp = s.rsp ∧ t.input = s.input ∧
      t.xfc.err = .none ∧ t.xfc.fsm = .idle ∧ t.xfc.seq = s.xfc.seq ∧ t.xfc.cnt.toNat = size k ∧
      t.xfc.sum = checksum payload ∧ t.xfc.crc = crc16 payload ∧ t.xfc.rseq = seq ∧ t.xfc.rcmp = cmpl ∧
      match result with
      | .ok p => p = payload ∧ t.xfc.rxres = .ok ∧ t.rx = s.rx ++ payload
      | .error e => t.xfc.rxres = e ∧ (e = .badcmpl ∨ e = .badseq ∨ e = .badtrl) ∧ t.rx = s.rx

/-- R172: the round trip, of the source's functions and of two XFCs. -/
def Obligations.RoundTripReleasesThePayload : Prop :=
  (∀ (k : BlockKind) (seq : Byte) (q : List Byte) (mode : Mode), q.length = size k →
    ∃ f, encodeFrame seq q mode = some f ∧ decodeAndValidate f seq mode = some (.ok q)) ∧
  (∀ (k : BlockKind) (q : List Byte) (s r : State),
    s.xfc.err = .none → s.xfc.fsm = .idle → s.xfc.modev = true →
    r.xfc.err = .none → r.xfc.fsm = .idle → r.xfc.modev = true →
    r.xfc.seq = s.xfc.seq → r.xfc.mode = s.xfc.mode → q.length = size k →
    ∃ (f : List Byte) (t u : State), encodeFrame s.xfc.seq q s.xfc.mode = some f ∧
      runCommands (.txbegin k :: q.map .txdata) s = .next t ∧ t.tx = s.tx ++ f ∧
      runCommands (f.map .rxbyte) r = .next u ∧ u.xfc.rxres = .ok ∧ u.rx = r.rx ++ q)

/-! ## Whole-machine rules -/

/-- R233: under the latch every command but NOP, RD, ERRCLR and INIT is ignored, illegal words too; only ERRCLR, INIT
and rst release it; fault shows it. -/
def Obligations.LatchIgnoresAllButFourCommands : Prop :=
  ∀ s : State, s.xfc.err ≠ .none →
    (∀ i : Instr, i ≠ .nop → (∀ r, i ≠ .rd r) → i ≠ .errclr → i ≠ .init → exec i s = .next s) ∧
    (∀ (w : Word) (rest : List HostEvent) (e : DecodeError), s.input = .command w :: rest → decode w = .error e →
      step s = .next { s with input := rest }) ∧
    (∀ (i : Instr) (t : State), exec i s = .next t → t.xfc.err ≠ s.xfc.err →
      (i = .errclr ∨ i = .init) ∧ t.xfc.err = .none) ∧
    (∃ t, exec .errclr s = .next t ∧ t.xfc.err = .none) ∧
    (∃ t, exec .init s = .next t ∧ t.xfc.err = .none) ∧
    (∀ rest : List HostEvent, s.input = .rst :: rest → ∃ t, step s = .next t ∧ t.xfc.err = .none) ∧
    s.faultOut = true

/-- R232: a command or an illegal word that sets ERR changes nothing else and emits nothing. -/
def Obligations.RejectionChangesNothingButErr : Prop :=
  (∀ (i : Instr) (s t : State), exec i s = .next t → t.xfc.err ≠ s.xfc.err → t.xfc.err ≠ .none →
    s.xfc.err = .none ∧ t = { s with xfc := { s.xfc with err := t.xfc.err } }) ∧
  (∀ (s t : State) (w : Word) (rest : List HostEvent) (e : DecodeError), s.input = .command w :: rest →
    decode w = .error e → step s = .next t → t.xfc.err ≠ s.xfc.err →
    s.xfc.err = .none ∧ t = { s with input := rest, xfc := { s.xfc with err := t.xfc.err } })

/-- R241: the precondition table. With ERR = NONE, a command whose first failing check has a code is rejected with that
code, and one with none failing leaves ERR at NONE; the table's second column says which execute under the latch; the
last row is the illegal word. -/
def Obligations.PreconditionTableGivesTheRejection : Prop :=
  (∀ (s : State) (w : Word) (rest : List HostEvent) (e : DecodeError), s.input = .command w :: rest →
    decode w = .error e → s.xfc.err = .none →
    step s = .next { s with input := rest, xfc := { s.xfc with err := .illegal } }) ∧
  ∀ (i : Instr) (s : State),
    (s.xfc.err = .none → ∀ c, failedCheck i s.xfc = some c →
      exec i s = .next { s with xfc := { s.xfc with err := c } }) ∧
    (s.xfc.err = .none → failedCheck i s.xfc = none → ∀ t, exec i s = .next t → t.xfc.err = .none) ∧
    (s.xfc.err ≠ .none → executesLatched i = false → exec i s = .next s)

/-- R43: the write map. A command not listed for an item never changes it. -/
def Obligations.WriteMapListsEveryWriter : Prop :=
  ∀ (item : Item) (i : Instr) (s t : State), exec i s = .next t → mayWrite item i s.xfc = false →
    SameItem item s.xfc t.xfc

/-- R191: the framer's transitions. The premise is R39(d) and (f). -/
def Obligations.FramerFollowsTheTransitionTable : Prop :=
  (∀ (i : Instr) (s t : State),
    (s.xfc.fsm = .txpayload ∨ s.xfc.fsm = .rxpayload → s.xfc.cnt.toNat < size s.xfc.blk) → exec i s = .next t →
    (executes i s.xfc = true → t.xfc.fsm = fsmAfter i s.xfc) ∧
    (executes i s.xfc = false → t.xfc.fsm = s.xfc.fsm)) ∧
  (∀ (s : State) (rest : List HostEvent), s.input = .rst :: rest → ∃ t, step s = .next t ∧ t.xfc.fsm = .idle) ∧
  (∀ (s : State) (w : Word) (rest : List HostEvent) (e : DecodeError), s.input = .command w :: rest →
    decode w = .error e → ∃ t, step s = .next t ∧ t.xfc.fsm = s.xfc.fsm)

/-- From R63(b), R262 and the outputs each command rule names: a command only appends to the streams; only the transmit
commands emit on tx (R141, R143, R145), only an OK verdict on rx, size(BLK) bytes (R53, R160, R169), and only RD on rsp,
one value (R189). That the streams are lists in the state is the model's reading (log 7). -/
def Obligations.StreamsOnlyGrowAndBySomeCommandsOnly : Prop :=
  ∀ (i : Instr) (s t : State), exec i s = .next t →
    t.input = s.input ∧
    (∃ out, t.tx = s.tx ++ out ∧ (out ≠ [] → (∃ k, i = .txbegin k) ∨ (∃ b, i = .txdata b) ∨ i = .txpad)) ∧
    (∃ out, t.rx = s.rx ++ out ∧
      (out ≠ [] → (∃ b, i = .rxbyte b) ∧ t.xfc.rxres = .ok ∧ out.length = size s.xfc.blk)) ∧
    (∃ out, t.rsp = s.rsp ++ out ∧ (out ≠ [] → (∃ r, i = .rd r) ∧ out.length = 1))

/-- From R52, R54: BUF's bytes change only by RXBYTE in RXPAYLOAD, and then only at address CNT, or at an address of BUF
that the model chooses where CNT is none (log 3). -/
def Obligations.BufChangesOnlyAtCntInRxpayload : Prop :=
  ∀ (i : Instr) (s t : State) (a : Nat), exec i s = .next t → t.xfc.buf.read a ≠ s.xfc.buf.read a →
    (∃ b, i = .rxbyte b ∧ t.xfc.buf.read a = b) ∧ s.xfc.fsm = .rxpayload ∧ s.xfc.err = .none ∧
      a < 1024 ∧ (s.xfc.cnt.toNat < 1024 → a = s.xfc.cnt.toNat)

/-- The invariant R39 holds at reset. -/
def Obligations.InvariantHoldsAtReset : Prop := Inv State.reset

/-- Every step from a state with the invariant R39 keeps it, whatever the host offers. -/
def Obligations.EveryStepKeepsTheInvariant : Prop :=
  ∀ s t : State, Inv s → step s = .next t → Inv t

/-- R39: every reachable state has the invariant; (a) and (l) say that the codes of the three status fields are those
listed. The p of (k) is, in a transmit frame, what the tx stream holds after the header bytes and, in a receive frame,
what BUF holds. -/
def Obligations.ReachableStatesHaveTheInvariant : Prop :=
  ∀ s : State, Reachable s →
    Inv s ∧ s.xfc.fsm.code.toNat ≤ 6 ∧ s.xfc.err.code.toNat ≤ 5 ∧ s.xfc.rxres.code.toNat ≤ 5

/-- From R8, R253: in every state, with no premise, every step and every command answers a next state; and the step on a
word is one function of XFC's items and the word, whose outputs are bytes for tx, bytes for rx and at most one value for
rsp. That the word and the outputs stand in the state is the model's reading (log 6, log 7). -/
def Obligations.EveryStepAnswersANextState : Prop :=
  (∀ s : State, ∃ t, step s = .next t) ∧
  (∀ (i : Instr) (s : State), ∃ t, exec i s = .next t) ∧
  (∃ f : Xfc → Word → Xfc × List Byte × List Byte × Option Word,
    ∀ (s : State) (w : Word) (rest : List HostEvent), s.input = .command w :: rest →
      step s = .next { s with
        xfc := (f s.xfc w).1
        input := rest
        tx := s.tx ++ (f s.xfc w).2.1
        rx := s.rx ++ (f s.xfc w).2.2.1
        rsp := s.rsp ++ (f s.xfc w).2.2.2.toList })

/-- R38: the contents of BUF that no frame has written are unobservable: two states that differ in them only run to
states that differ in them only, with the same streams. INIT does not change BUF. -/
def Obligations.UnwrittenBufIsUnobservable : Prop :=
  (∀ (n : Nat) (s s' t : State), Inv s → DifferOnlyInHiddenBuf s s' →
    Host.Core.run Sys2Proof.core n s = .next t →
    ∃ t' : State, Host.Core.run Sys2Proof.core n s' = .next t' ∧ DifferOnlyInHiddenBuf t t' ∧
      t'.tx = t.tx ∧ t'.rx = t.rx ∧ t'.rsp = t.rsp) ∧
  (∀ s t : State, exec .init s = .next t → t.xfc.buf = s.xfc.buf)

/-- From R7, R63: a run over the encoded words of a command sequence is that sequence of commands. -/
def Obligations.RunOverOfferedWordsIsTheCommandSequence : Prop :=
  ∀ (is : List Instr) (s : State), s.input = [] →
    Host.Core.run Sys2Proof.core is.length (offer (is.map encode) s) = runCommands is s
end

