-- ==== Sys2Proof/Laws/Decode.lean ====
section
/-! SUPPORT. The fields of a command word: taking apart and putting together (30_encoding.md R70). -/

namespace Sys2Proof

theorem getLsbD_commandWord (op arg : Byte) (i : Nat) :
    (commandWord op arg).getLsbD i = if i < 8 then arg.getLsbD i else op.getLsbD (i - 8) :=
  BitVec.getLsbD_append (x := op) (y := arg) (i := i)

@[simp] theorem opField_commandWord (op arg : Byte) : opField (commandWord op arg) = op := by
  apply BitVec.eq_of_getLsbD_eq
  intro i hi
  simp [opField, getLsbD_commandWord, hi]

@[simp] theorem argField_commandWord (op arg : Byte) : argField (commandWord op arg) = arg := by
  apply BitVec.eq_of_getLsbD_eq
  intro i hi
  simp [argField, getLsbD_commandWord, hi]

/-- A word is its two fields. -/
theorem commandWord_fields (w : Word) : commandWord (opField w) (argField w) = w := by
  unfold commandWord opField argField
  exact BitVec.extractLsb'_append_extractLsb'_eq_extractLsb' (by omega) |>.trans (by simp)

theorem decode_commandWord (op arg : Byte) : decode (commandWord op arg) = decodeFields op arg := by
  simp [decode]

end Sys2Proof
end

