-- ==== Sys2Proof/Laws/State.lean ====
section
/-! SUPPORT. One lemma per field per named update of State and of Xfc, each true by unfolding once. -/

namespace Sys2Proof.Machine

section
variable (s : State) (f : Xfc → Xfc) (bs : List Byte) (v : Word) (w : Word) (ws : List Word)

@[simp] theorem update_xfc : (s.update f).xfc = f s.xfc := rfl
@[simp] theorem update_input : (s.update f).input = s.input := rfl
@[simp] theorem update_tx : (s.update f).tx = s.tx := rfl
@[simp] theorem update_rx : (s.update f).rx = s.rx := rfl
@[simp] theorem update_rsp : (s.update f).rsp = s.rsp := rfl
@[simp] theorem update_resets : (s.update f).resets = s.resets := rfl

@[simp] theorem emitTx_xfc : (s.emitTx bs).xfc = s.xfc := rfl
@[simp] theorem emitTx_input : (s.emitTx bs).input = s.input := rfl
@[simp] theorem emitTx_tx : (s.emitTx bs).tx = s.tx ++ bs := rfl
@[simp] theorem emitTx_rx : (s.emitTx bs).rx = s.rx := rfl
@[simp] theorem emitTx_rsp : (s.emitTx bs).rsp = s.rsp := rfl
@[simp] theorem emitTx_resets : (s.emitTx bs).resets = s.resets := rfl

@[simp] theorem emitRx_xfc : (s.emitRx bs).xfc = s.xfc := rfl
@[simp] theorem emitRx_input : (s.emitRx bs).input = s.input := rfl
@[simp] theorem emitRx_tx : (s.emitRx bs).tx = s.tx := rfl
@[simp] theorem emitRx_rx : (s.emitRx bs).rx = s.rx ++ bs := rfl
@[simp] theorem emitRx_rsp : (s.emitRx bs).rsp = s.rsp := rfl
@[simp] theorem emitRx_resets : (s.emitRx bs).resets = s.resets := rfl

@[simp] theorem respond_xfc : (s.respond v).xfc = s.xfc := rfl
@[simp] theorem respond_input : (s.respond v).input = s.input := rfl
@[simp] theorem respond_tx : (s.respond v).tx = s.tx := rfl
@[simp] theorem respond_rx : (s.respond v).rx = s.rx := rfl
@[simp] theorem respond_rsp : (s.respond v).rsp = s.rsp ++ [v] := rfl
@[simp] theorem respond_resets : (s.respond v).resets = s.resets := rfl

@[simp] theorem releaseLatch_xfc : (releaseLatch s).xfc = { s.xfc with err := .none } := rfl

@[simp] theorem assertReset_xfc :
    (assertReset s).xfc = freshSession (Memory.ofFun (Config.resetBufByte s.resets)) := rfl
@[simp] theorem assertReset_input : (assertReset s).input = s.input := rfl
@[simp] theorem assertReset_tx : (assertReset s).tx = s.tx := rfl
@[simp] theorem assertReset_rx : (assertReset s).rx = s.rx := rfl
@[simp] theorem assertReset_rsp : (assertReset s).rsp = s.rsp := rfl
@[simp] theorem assertReset_resets : (assertReset s).resets = s.resets + 1 := rfl

@[simp] theorem offerFirst_xfc : (offerFirst w s).xfc = s.xfc := rfl
@[simp] theorem offerFirst_input : (offerFirst w s).input = .command w :: s.input := rfl
@[simp] theorem offer_xfc : (offer ws s).xfc = s.xfc := rfl
@[simp] theorem offer_input : (offer ws s).input = s.input ++ ws.map .command := rfl

end

section
variable (k : BlockKind) (b : Byte) (x : Xfc) (m : Memory)

@[simp] theorem openFrame_sum : (openFrame k x).sum = 0x00#8 := rfl
@[simp] theorem openFrame_crc : (openFrame k x).crc = 0x0000#16 := rfl
@[simp] theorem openFrame_seq : (openFrame k x).seq = x.seq := rfl
@[simp] theorem openFrame_pad : (openFrame k x).pad = x.pad := rfl
@[simp] theorem openFrame_modev : (openFrame k x).modev = x.modev := rfl
@[simp] theorem openFrame_mode : (openFrame k x).mode = x.mode := rfl
@[simp] theorem openFrame_blk : (openFrame k x).blk = k := rfl
@[simp] theorem openFrame_cnt : (openFrame k x).cnt = 0#11 := rfl
@[simp] theorem openFrame_fsm : (openFrame k x).fsm = x.fsm := rfl
@[simp] theorem openFrame_err : (openFrame k x).err = x.err := rfl
@[simp] theorem openFrame_rxres : (openFrame k x).rxres = x.rxres := rfl
@[simp] theorem openFrame_rseq : (openFrame k x).rseq = x.rseq := rfl
@[simp] theorem openFrame_rcmp : (openFrame k x).rcmp = x.rcmp := rfl
@[simp] theorem openFrame_rth : (openFrame k x).rth = x.rth := rfl
@[simp] theorem openFrame_buf : (openFrame k x).buf = x.buf := rfl

@[simp] theorem countByte_sum : (countByte b x).sum = sumStep x.sum b := rfl
@[simp] theorem countByte_crc : (countByte b x).crc = crcByte x.crc b := rfl
@[simp] theorem countByte_seq : (countByte b x).seq = x.seq := rfl
@[simp] theorem countByte_pad : (countByte b x).pad = x.pad := rfl
@[simp] theorem countByte_modev : (countByte b x).modev = x.modev := rfl
@[simp] theorem countByte_mode : (countByte b x).mode = x.mode := rfl
@[simp] theorem countByte_blk : (countByte b x).blk = x.blk := rfl
@[simp] theorem countByte_cnt : (countByte b x).cnt = x.cnt + 1#11 := rfl
@[simp] theorem countByte_fsm : (countByte b x).fsm = x.fsm := rfl
@[simp] theorem countByte_err : (countByte b x).err = x.err := rfl
@[simp] theorem countByte_rxres : (countByte b x).rxres = x.rxres := rfl
@[simp] theorem countByte_rseq : (countByte b x).rseq = x.rseq := rfl
@[simp] theorem countByte_rcmp : (countByte b x).rcmp = x.rcmp := rfl
@[simp] theorem countByte_rth : (countByte b x).rth = x.rth := rfl
@[simp] theorem countByte_buf : (countByte b x).buf = x.buf := rfl

@[simp] theorem freshSession_buf : (freshSession m).buf = m := rfl
@[simp] theorem freshSession_fsm : (freshSession m).fsm = .idle := rfl
@[simp] theorem freshSession_err : (freshSession m).err = .none := rfl
@[simp] theorem freshSession_modev : (freshSession m).modev = false := rfl
@[simp] theorem freshSession_cnt : (freshSession m).cnt = 0#11 := rfl

/-- The two places that write the reset values agree (R37, R186). -/
theorem freshSession_reset : freshSession [] = State.reset.xfc := rfl

end

end Sys2Proof.Machine
end

