-- ==== Sys2Proof/Laws/Memory.lean ====
section
/-! SUPPORT. The laws of BUF: read after write, writes elsewhere, and the canonical form, which every memory operation
keeps. -/

namespace Sys2Proof.Machine

@[simp] theorem read_nil (a : Nat) : Memory.read [] a = Config.unwrittenByte := rfl

theorem read_cons (k : Nat) (v : Byte) (m : Memory) (a : Nat) :
    Memory.read ((k, v) :: m) a = if k = a then v else Memory.read m a := rfl

theorem read_erase_same (m : Memory) (a : Nat) : (m.erase a).read a = Config.unwrittenByte := by
  induction m with
  | nil => rfl
  | cons c m ih =>
    obtain ⟨k, v⟩ := c
    unfold Memory.erase at ih ⊢
    by_cases h : k = a <;> simp [h, read_cons, ih]

theorem read_erase_other (m : Memory) {a a' : Nat} (h : a' ≠ a) : (m.erase a).read a' = m.read a' := by
  induction m with
  | nil => rfl
  | cons c m ih =>
    obtain ⟨k, v⟩ := c
    unfold Memory.erase at ih ⊢
    by_cases hk : k = a
    · subst hk
      simp [read_cons, ih, Ne.symm h]
    · simp [hk, read_cons, ih]

theorem read_insert_same (m : Memory) (a : Nat) (b : Byte) (h : ∀ c ∈ m, c.1 ≠ a) : (m.insert a b).read a = b := by
  induction m with
  | nil => simp [Memory.insert, read_cons]
  | cons c m ih =>
    obtain ⟨k, v⟩ := c
    have hk : k ≠ a := h (k, v) (by simp)
    have hm : ∀ c ∈ m, c.1 ≠ a := fun c hc => h c (by simp [hc])
    unfold Memory.insert
    split
    · simp [read_cons]
    · simp [read_cons, hk, ih hm]

theorem read_insert_other (m : Memory) {a a' : Nat} (b : Byte) (h : a' ≠ a) : (m.insert a b).read a' = m.read a' := by
  induction m with
  | nil => simp [Memory.insert, read_cons, Ne.symm h]
  | cons c m ih =>
    obtain ⟨k, v⟩ := c
    unfold Memory.insert
    split
    · simp [read_cons, Ne.symm h]
    · simp [read_cons, ih]

theorem mem_erase_ne (m : Memory) (a : Nat) : ∀ c ∈ m.erase a, c.1 ≠ a := by
  intro c hc
  have := (List.mem_filter.mp hc).2
  simpa using this

/-- A read after a write to the same address gives the value written. -/
@[simp] theorem read_write_same (m : Memory) (a : Nat) (b : Byte) : (m.write a b).read a = b := by
  unfold Memory.write
  split
  · next h => rw [read_erase_same, h]
  · exact read_insert_same _ _ _ (mem_erase_ne m a)

/-- A write leaves every other address alone. -/
theorem read_write_other (m : Memory) {a a' : Nat} (b : Byte) (h : a' ≠ a) : (m.write a b).read a' = m.read a' := by
  unfold Memory.write
  split
  · exact read_erase_other m h
  · rw [read_insert_other _ _ h, read_erase_other m h]

theorem wfFrom_cons (lo k : Nat) (v : Byte) (m : Memory) :
    Memory.wfFrom lo ((k, v) :: m) = true ↔
      lo ≤ k ∧ k < Config.bufSize ∧ v ≠ Config.unwrittenByte ∧ m.wfFrom (k + 1) = true := by
  simp [Memory.wfFrom, and_assoc]

theorem wfFrom_mono {lo lo' : Nat} (m : Memory) (hle : lo' ≤ lo) (h : m.wfFrom lo = true) : m.wfFrom lo' = true := by
  cases m with
  | nil => rfl
  | cons c m =>
    obtain ⟨k, v⟩ := c
    rw [wfFrom_cons] at h ⊢
    exact ⟨le_trans hle h.1, h.2⟩

theorem wfFrom_erase (m : Memory) (lo a : Nat) (h : m.wfFrom lo = true) : (m.erase a).wfFrom lo = true := by
  induction m generalizing lo with
  | nil => rfl
  | cons c m ih =>
    obtain ⟨k, v⟩ := c
    rw [wfFrom_cons] at h
    have ih' := ih (k + 1) h.2.2.2
    unfold Memory.erase at ih' ⊢
    by_cases hk : k = a
    · simpa [List.filter_cons, hk] using wfFrom_mono _ (by omega) ih'
    · have : Memory.wfFrom lo ((k, v) :: m.filter fun c => c.1 != a) = true :=
        (wfFrom_cons _ _ _ _).mpr ⟨h.1, h.2.1, h.2.2.1, ih'⟩
      simpa [List.filter_cons, hk] using this

theorem wfFrom_insert (m : Memory) (lo a : Nat) (b : Byte) (hlo : lo ≤ a) (ha : a < Config.bufSize)
    (hb : b ≠ Config.unwrittenByte) (hm : ∀ c ∈ m, c.1 ≠ a) (h : m.wfFrom lo = true) :
    (m.insert a b).wfFrom lo = true := by
  induction m generalizing lo with
  | nil => exact (wfFrom_cons _ _ _ _).mpr ⟨hlo, ha, hb, rfl⟩
  | cons c m ih =>
    obtain ⟨k, v⟩ := c
    have hk : k ≠ a := hm (k, v) (by simp)
    rw [wfFrom_cons] at h
    unfold Memory.insert
    split
    · exact (wfFrom_cons _ _ _ _).mpr ⟨hlo, ha, hb, (wfFrom_cons _ _ _ _).mpr ⟨by omega, h.2⟩⟩
    · exact (wfFrom_cons _ _ _ _).mpr
        ⟨h.1, h.2.1, h.2.2.1, ih (k + 1) (by omega) (fun c hc => hm c (by simp [hc])) h.2.2.2⟩

/-- A write keeps the canonical form. -/
theorem wf_write (m : Memory) (a : Nat) (b : Byte) (ha : a < Config.bufSize) (h : m.wf = true) :
    (m.write a b).wf = true := by
  unfold Memory.wf Memory.write at *
  split
  · exact wfFrom_erase m 0 a h
  · next hb => exact wfFrom_insert _ 0 a b (Nat.zero_le a) ha hb (mem_erase_ne m a) (wfFrom_erase m 0 a h)

theorem wfFrom_ofRange (f : Nat → Byte) (lo n : Nat) (hn : lo + n ≤ Config.bufSize) :
    Memory.wfFrom lo ((List.range' lo n).filterMap
      (fun a => if f a = Config.unwrittenByte then none else some (a, f a))) = true := by
  induction n generalizing lo with
  | zero => rfl
  | succ n ih =>
    have ih' := ih (lo + 1) (by omega)
    rw [List.range'_succ, List.filterMap_cons]
    by_cases hf : f lo = Config.unwrittenByte
    · simpa [hf] using wfFrom_mono _ (Nat.le_succ lo) ih'
    · simp only [hf, if_false]
      exact (wfFrom_cons _ _ _ _).mpr ⟨le_refl lo, by omega, hf, ih'⟩

/-- The free contents of BUF after rst are in canonical form. -/
theorem wf_ofFun (f : Nat → Byte) : (Memory.ofFun f).wf = true := by
  unfold Memory.ofFun Memory.wf
  rw [List.range_eq_range']
  exact wfFrom_ofRange f 0 Config.bufSize (by simp)

theorem wf_reset : State.reset.xfc.buf.wf = true := rfl

@[simp] theorem length_readFirst (m : Memory) (n : Nat) : (m.readFirst n).length = n := by
  simp [Memory.readFirst]

theorem readFirst_succ (m : Memory) (n : Nat) : m.readFirst (n + 1) = m.readFirst n ++ [m.read n] := by
  simp [Memory.readFirst, List.range_succ]

/-- The first n bytes depend on nothing else. -/
theorem readFirst_congr (m m' : Memory) (n : Nat) (h : ∀ a, a < n → m.read a = m'.read a) :
    m.readFirst n = m'.readFirst n := by
  unfold Memory.readFirst
  exact List.map_congr_left fun a ha => h a (List.mem_range.mp ha)

/-- Storing at address n after the first n bytes appends one byte (R52). -/
theorem readFirst_write (m : Memory) (n : Nat) (b : Byte) :
    (m.write n b).readFirst (n + 1) = m.readFirst n ++ [b] := by
  rw [readFirst_succ, read_write_same, readFirst_congr _ m n fun a ha => read_write_other m b (by omega)]

end Sys2Proof.Machine
end

