-- ==== Sys2Proof/Laws/Ops.lean ====
section
/-! SUPPORT. One lemma per shared operation that says once everything it can do. -/

namespace Sys2Proof.Machine

/-! ## Latch, rejection, checks -/

theorem reject_eq (code : Err) (s : State) : reject code s = .next { s with xfc := { s.xfc with err := code } } := rfl

theorem unlessLatched_clear {s : State} (h : s.xfc.err = .none) (k : Result) : unlessLatched s k = k := by
  simp [unlessLatched, h]

theorem unlessLatched_latched {s : State} (h : s.xfc.err ≠ .none) (k : Result) : unlessLatched s k = .next s := by
  simp [unlessLatched, h]

/-- Under the latch nothing happens; otherwise the command's own result. -/
theorem unlessLatched_next {s t : State} {k : Result} (h : unlessLatched s k = .next t) :
    (s.xfc.err ≠ .none ∧ t = s) ∨ (s.xfc.err = .none ∧ k = .next t) := by
  by_cases he : s.xfc.err = .none
  · exact .inr ⟨he, by rwa [unlessLatched_clear he] at h⟩
  · rw [unlessLatched_latched he] at h
    exact .inl ⟨he, (Host.Outcome.next.inj h).symm⟩

theorem requireIdle_idle {s : State} (h : s.xfc.fsm = .idle) (k : Result) : requireIdle s k = k := by
  simp [requireIdle, h]

theorem requireIdle_open {s : State} (h : s.xfc.fsm ≠ .idle) (k : Result) : requireIdle s k = reject .busy s := by
  simp [requireIdle, h]

theorem requireTxPayload_open {s : State} (h : s.xfc.fsm = .txpayload) (k : Result) : requireTxPayload s k = k := by
  simp [requireTxPayload, h]

theorem requireTxPayload_other {s : State} (h : s.xfc.fsm ≠ .txpayload) (k : Result) :
    requireTxPayload s k = reject .phase s := by
  simp [requireTxPayload, h]

theorem requireMode_chosen {s : State} (h : s.xfc.modev = true) (k : Result) : requireMode s k = k := by
  simp [requireMode, h]

theorem requireMode_none {s : State} (h : s.xfc.modev = false) (k : Result) : requireMode s k = reject .nomode s := by
  simp [requireMode, h]

theorem requireNoMode_none {s : State} (h : s.xfc.modev = false) (k : Result) : requireNoMode s k = k := by
  simp [requireNoMode, h]

theorem requireNoMode_chosen {s : State} (h : s.xfc.modev = true) (k : Result) :
    requireNoMode s k = reject .modelock s := by
  simp [requireNoMode, h]

theorem illegalWord_clear {s : State} (h : s.xfc.err = .none) :
    illegalWord s = .next { s with xfc := { s.xfc with err := .illegal } } := by
  rw [illegalWord, unlessLatched_clear h, reject_eq]

theorem illegalWord_latched {s : State} (h : s.xfc.err ≠ .none) : illegalWord s = .next s :=
  unlessLatched_latched h _

/-! ## Accumulators -/

theorem checksum_nil : checksum [] = 0x00#8 := rfl

theorem checksum_append (p : List Byte) (b : Byte) : checksum (p ++ [b]) = sumStep (checksum p) b := by
  apply BitVec.eq_of_toNat_eq
  simp [checksum, sumStep, List.sum_append]

/-- The checksum is the running sum (R101). -/
theorem foldl_sumStep (p : List Byte) (acc : Byte) : p.foldl sumStep acc = acc + checksum p := by
  induction p using List.reverseRecOn with
  | nil => simp [checksum_nil]
  | append_singleton p b ih => rw [List.foldl_append, ih, checksum_append]; simp [sumStep, BitVec.add_assoc]

theorem crc16_nil : crc16 [] = 0x0000#16 := rfl

theorem crc16_append (p : List Byte) (b : Byte) : crc16 (p ++ [b]) = crcByte (crc16 p) b := by
  simp [crc16]

/-! ## Codes and views -/

theorem headerKind_hdr (k : BlockKind) : headerKind (hdr k) = some k := by cases k <;> rfl

theorem headerKind_eq_some {b : Byte} {k : BlockKind} : headerKind b = some k ↔ b = hdr k := by
  cases k <;> simp only [headerKind, hdr] <;> split <;> (try split) <;> simp_all [Config.soh, Config.stx]

theorem joinBytes_hi_lo (w : Word) : joinBytes (hiByte w) (loByte w) = w := by
  unfold joinBytes hiByte loByte
  exact BitVec.extractLsb'_append_extractLsb'_eq_extractLsb' (by omega) |>.trans (by simp)

theorem hiByte_joinBytes (h l : Byte) : hiByte (joinBytes h l) = h := opField_commandWord h l

theorem loByte_joinBytes (h l : Byte) : loByte (joinBytes h l) = l := argField_commandWord h l

theorem size_le (k : BlockKind) : size k ≤ 1024 := by cases k <;> decide

theorem size_pos (k : BlockKind) : 0 < size k := by cases k <;> decide

/-! ## The framer -/

theorem txPut_eq (b : Byte) (s : State) :
    txPut b s = { s with xfc := countByte b s.xfc, tx := s.tx ++ [b] } := rfl

/-- n payload bytes in a row: each is emitted, accumulated and counted, and nothing else changes (R145). -/
theorem txPutMany_eq (n : Nat) (b : Byte) (s : State) :
    txPutMany n b s =
      { s with
        xfc := { s.xfc with
          sum := (List.replicate n b).foldl sumStep s.xfc.sum
          crc := (List.replicate n b).foldl crcByte s.xfc.crc
          cnt := s.xfc.cnt + BitVec.ofNat 11 n }
        tx := s.tx ++ List.replicate n b } := by
  induction n generalizing s with
  | zero => simp [txPutMany]
  | succ n ih =>
    rw [txPutMany, ih, txPut_eq]
    simp [List.replicate_succ, countByte, BitVec.ofNat_add, BitVec.add_assoc, BitVec.add_comm (1#11)]

theorem txClose_eq (s : State) :
    txClose s = { s with xfc := { s.xfc with fsm := .idle }, tx := s.tx ++ trailerBytes s.xfc } := rfl

theorem length_trailerBytes (x : Xfc) : (trailerBytes x).length = tlen x.mode := by
  unfold trailerBytes tlen
  cases x.mode <;> rfl

theorem bufAddress_eq (cnt : Count) : bufAddress cnt = cnt.toNat % 1024 := by
  simp [bufAddress]

theorem bufAddress_lt (cnt : Count) : bufAddress cnt < 1024 := by
  rw [bufAddress_eq]
  omega

/-- Where CNT is an address of BUF it is the address stored to (R52). -/
theorem bufAddress_of_lt {cnt : Count} (h : cnt.toNat < 1024) : bufAddress cnt = cnt.toNat := by
  rw [bufAddress_eq, Nat.mod_eq_of_lt h]

theorem wf_storeAtCount (b : Byte) (x : Xfc) (h : x.buf.wf = true) : (storeAtCount b x).buf.wf = true :=
  wf_write _ _ b (bufAddress_lt x.cnt) h

/-- A payload byte taken from a receive frame: everything it does (R165). -/
theorem rxPayload_eq (b : Byte) (s : State) :
    rxPayload b s =
      { s with xfc := { countByte b s.xfc with
        buf := s.xfc.buf.write (bufAddress s.xfc.cnt) b
        fsm := if (s.xfc.cnt + 1#11).toNat = size s.xfc.blk then .rxtrl1 else s.xfc.fsm } } := by
  by_cases hd : (s.xfc.cnt + 1#11).toNat = size s.xfc.blk <;>
    simp [rxPayload, afterPayloadByte, storeAtCount, State.update, countByte, payloadDone, hd, -BitVec.toNat_add]

/-- A verdict writes RXRES and FSM, and releases the payload exactly when it is OK (R169). -/
theorem verdict_eq (ok : Bool) (s : State) :
    verdict ok s =
      { s with
        xfc := { s.xfc with rxres := verdictCode ok s.xfc, fsm := .idle }
        rx := s.rx ++ if verdictCode ok s.xfc = .ok then s.xfc.buf.readFirst (size s.xfc.blk) else [] } := rfl

theorem verdictCode_ok {ok : Bool} {x : Xfc} :
    verdictCode ok x = .ok ↔ x.rseq.toNat + x.rcmp.toNat = 0xFF ∧ x.rseq = x.seq ∧ ok = true := by
  unfold verdictCode
  split_ifs <;> simp_all

/-! ## Ports -/

theorem takeEvent_nil {s : State} (h : s.input = []) : takeEvent s = none := by
  simp [takeEvent, h]

theorem takeEvent_cons {s : State} {e : HostEvent} {rest : List HostEvent} (h : s.input = e :: rest) :
    takeEvent s = some (e, { s with input := rest }) := by
  simp [takeEvent, h]

theorem takeEvent_offerFirst (w : Word) (s : State) : takeEvent (offerFirst w s) = some (.command w, s) := rfl

end Sys2Proof.Machine
end

