-- ==== Sys2Proof/Laws/Exec.lean ====
section
/-! SUPPORT. The inversion lemma of exec: everything a command that answers a next state can have done. Whole-machine
statements follow from it without unfolding the meanings again. -/

namespace Sys2Proof.Machine

/-- What a command that executes does to the state, and the framer state it executes in. -/
def Effect (i : Instr) (s t : State) : Prop :=
  match i with
  | .nop => t = s
  | .init => t = s.update fun x => freshSession x.buf
  | .errclr => t = releaseLatch s
  | .abort => t = s.update fun x => { x with fsm := .idle, cnt := 0#11 }
  | .rd r => t = s.respond (view r s.xfc)
  | .sumclr => s.xfc.fsm = .idle ∧ t = s.update fun x => { x with sum := 0x00#8 }
  | .sumbyte b => s.xfc.fsm = .idle ∧ t = s.update fun x => { x with sum := sumStep x.sum b }
  | .crcclr => s.xfc.fsm = .idle ∧ t = s.update fun x => { x with crc := 0x0000#16 }
  | .crcbyte b => s.xfc.fsm = .idle ∧ t = s.update fun x => { x with crc := crcByte x.crc b }
  | .setmode m =>
    s.xfc.fsm = .idle ∧ s.xfc.modev = false ∧ t = s.update fun x => { x with modev := true, mode := m }
  | .setseq v => s.xfc.fsm = .idle ∧ t = s.update fun x => { x with seq := v }
  | .seqnext => s.xfc.fsm = .idle ∧ t = s.update fun x => { x with seq := x.seq + 1#8 }
  | .setpad v => s.xfc.fsm = .idle ∧ t = s.update fun x => { x with pad := v }
  | .txbegin k =>
    s.xfc.fsm = .idle ∧ s.xfc.modev = true ∧
      t = (s.emitTx [hdr k, s.xfc.seq, complement s.xfc.seq]).update fun x => { openFrame k x with fsm := .txpayload }
  | .txdata b =>
    s.xfc.fsm = .txpayload ∧ t = if payloadDone (txPut b s).xfc then txClose (txPut b s) else txPut b s
  | .txpad =>
    s.xfc.fsm = .txpayload ∧ t = txClose (txPutMany (size s.xfc.blk - s.xfc.cnt.toNat) s.xfc.pad s)
  | .rxbyte b =>
    (s.xfc.fsm = .idle ∧ s.xfc.modev = true ∧ t = rxIdle b s) ∨
    (s.xfc.fsm = .rxseq ∧ t = rxSequence b s) ∨
    (s.xfc.fsm = .rxcmpl ∧ t = rxComplement b s) ∨
    (s.xfc.fsm = .rxpayload ∧ t = rxPayload b s) ∨
    (s.xfc.fsm = .rxtrl1 ∧ t = rxTrailer1 b s) ∨
    (s.xfc.fsm = .rxtrl2 ∧ t = rxTrailer2 b s)

/-- A command that answers a next state was ignored under the latch, or rejected, or executed. -/
theorem exec_cases {i : Instr} {s t : State} (h : exec i s = .next t) :
    (s.xfc.err ≠ .none ∧ executesLatched i = false ∧ t = s) ∨
    (s.xfc.err = .none ∧ ∃ c, failedCheck i s.xfc = some c ∧ t = { s with xfc := { s.xfc with err := c } }) ∨
    (executes i s.xfc = true ∧ Effect i s t) := by
  by_cases he : s.xfc.err = .none
  · right
    cases i <;> simp only [exec, execNop, execInit, execErrclr, execAbort, execRd, execSumclr, execSumbyte, execCrcclr,
      execCrcbyte, execSetmode, execSetseq, execSeqnext, execSetpad, execTxbegin, execTxdata, execTxpad, execRxbyte,
      unlessLatched_clear he, requireIdle, requireMode, requireNoMode, requireTxPayload, reject_eq] at h
    case rxbyte b =>
      cases hf : s.xfc.fsm <;> simp [hf, he, executes, failedCheck, Effect] at h ⊢ <;>
        try (first | exact h.symm | exact h)
      split at h <;> rename_i hm <;> simp_all
    case nop | init | errclr | rd =>
      exact .inr ⟨by simp [executes, he, failedCheck], (Host.Outcome.next.inj h).symm⟩
    all_goals
      (try split at h) <;> (try split at h) <;> simp_all [executes, failedCheck, Effect, Config.crcInitial]
  · cases i <;> simp only [exec, execNop, execInit, execErrclr, execAbort, execRd, execSumclr, execSumbyte, execCrcclr,
      execCrcbyte, execSetmode, execSetseq, execSeqnext, execSetpad, execTxbegin, execTxdata, execTxpad, execRxbyte,
      unlessLatched_latched he] at h
    case nop | init | errclr | rd =>
      exact .inr (.inr ⟨by simp [executes, he, executesLatched], (Host.Outcome.next.inj h).symm⟩)
    all_goals simp_all [executesLatched]

end Sys2Proof.Machine
end

