-- ==== Sys2Proof/Laws/PerInstr.lean ====
section
/-! SUPPORT. Statements about every command as syntax, one lemma per constructor. The family EncodedWordIsWellFormed:
the word the encoder writes for a command passes the checks of WellFormed.lean, which do not use the decoder (R71, R75). -/

namespace Sys2Proof.Laws.EncodedWordIsWellFormed

def Statement (i : Instr) : Prop := (rawCommand (encode i)).wellFormed = true

theorem nop : Statement .nop := by unfold Statement; decide
theorem init : Statement .init := by unfold Statement; decide
theorem errclr : Statement .errclr := by unfold Statement; decide
theorem abort : Statement .abort := by unfold Statement; decide
theorem rd (r : RegView) : Statement (.rd r) := by unfold Statement; cases r <;> decide
theorem sumclr : Statement .sumclr := by unfold Statement; decide

/-- Words of format B: any arg is legal once the op is one of the six. -/
theorem formatB (op arg : Byte) (h : formatOfOp op = some .b) :
    (rawCommand (commandWord op arg)).wellFormed = true := by
  simp [rawCommand, RawCommand.wellFormed, h, Format.legalArg]

theorem sumbyte (b : Byte) : Statement (.sumbyte b) := formatB _ _ rfl
theorem crcclr : Statement .crcclr := by unfold Statement; decide
theorem crcbyte (b : Byte) : Statement (.crcbyte b) := formatB _ _ rfl
theorem setmode (m : Mode) : Statement (.setmode m) := by unfold Statement; cases m <;> decide
theorem setseq (v : Byte) : Statement (.setseq v) := formatB _ _ rfl
theorem seqnext : Statement .seqnext := by unfold Statement; decide
theorem setpad (v : Byte) : Statement (.setpad v) := formatB _ _ rfl
theorem txbegin (k : BlockKind) : Statement (.txbegin k) := by unfold Statement; cases k <;> decide
theorem txdata (b : Byte) : Statement (.txdata b) := formatB _ _ rfl
theorem txpad : Statement .txpad := by unfold Statement; decide
theorem rxbyte (b : Byte) : Statement (.rxbyte b) := formatB _ _ rfl

end Sys2Proof.Laws.EncodedWordIsWellFormed
end

