-- ==== Sys2Proof/Tests/Slice0.lean ====
section
/-! SUPPORT. Tests of the model, each by evaluation: the checks of WellFormed.lean, decoding, one or two single steps
per command; and the witnesses of the statements' hypotheses. Expected values are the spec's: 95_test_vectors.md (V<n>,
P<n>, S<n>) or the example of the rule named. -/

namespace Sys2Proof.Tests

open Sys2Proof.Machine

/-! ## WellFormed: one ill-formed raw command for each check (30_encoding.md R75) -/

theorem test_illformed_unassigned_op : (RawCommand.mk 0x04#8 0x00#8).wellFormed = false := by decide
theorem test_illformed_z_argument : (RawCommand.mk 0x42#8 0x01#8).wellFormed = false := by decide
theorem test_illformed_f_argument : (RawCommand.mk 0x40#8 0x02#8).wellFormed = false := by decide
theorem test_illformed_r_argument : (RawCommand.mk 0x08#8 0x08#8).wellFormed = false := by decide
theorem test_wellformed_bounds :
    (RawCommand.mk 0x42#8 0x00#8).wellFormed = true ∧ (RawCommand.mk 0x40#8 0x01#8).wellFormed = true ∧
      (RawCommand.mk 0x08#8 0x07#8).wellFormed = true ∧ (RawCommand.mk 0x50#8 0xFF#8).wellFormed = true := by decide

/-! ## Decoding: every constructor, op and arg written out in bits from R71 and R73; the list of V30 -/

theorem test_decode_nop : decode (0b00000000#8 ++ 0b00000000#8) = .ok .nop := by rfl
theorem test_decode_init : decode (0b00000001#8 ++ 0b00000000#8) = .ok .init := by rfl
theorem test_decode_errclr : decode (0b00000010#8 ++ 0b00000000#8) = .ok .errclr := by rfl
theorem test_decode_abort : decode (0b00000011#8 ++ 0b00000000#8) = .ok .abort := by rfl
theorem test_decode_rd :
    decode (0b00001000#8 ++ 0b00000000#8) = .ok (.rd .crc) ∧ decode (0b00001000#8 ++ 0b00000001#8) = .ok (.rd .sum) ∧
    decode (0b00001000#8 ++ 0b00000010#8) = .ok (.rd .seq) ∧ decode (0b00001000#8 ++ 0b00000011#8) = .ok (.rd .pad) ∧
    decode (0b00001000#8 ++ 0b00000100#8) = .ok (.rd .ctrl) ∧ decode (0b00001000#8 ++ 0b00000101#8) = .ok (.rd .cnt) ∧
    decode (0b00001000#8 ++ 0b00000110#8) = .ok (.rd .stat) ∧
    decode (0b00001000#8 ++ 0b00000111#8) = .ok (.rd .rxsc) := ⟨rfl, rfl, rfl, rfl, rfl, rfl, rfl, rfl⟩
theorem test_decode_sumclr : decode (0b00010000#8 ++ 0b00000000#8) = .ok .sumclr := by rfl
theorem test_decode_sumbyte : decode (0b00010001#8 ++ 0b11111111#8) = .ok (.sumbyte 0xFF#8) := by rfl
theorem test_decode_crcclr : decode (0b00100000#8 ++ 0b00000000#8) = .ok .crcclr := by rfl
theorem test_decode_crcbyte : decode (0b00100001#8 ++ 0b00010010#8) = .ok (.crcbyte 0x12#8) := by rfl
theorem test_decode_setmode :
    decode (0b00110000#8 ++ 0b00000000#8) = .ok (.setmode .checksum) ∧
    decode (0b00110000#8 ++ 0b00000001#8) = .ok (.setmode .crc16) := ⟨rfl, rfl⟩
theorem test_decode_setseq : decode (0b00110001#8 ++ 0b11111111#8) = .ok (.setseq 0xFF#8) := by rfl
theorem test_decode_seqnext : decode (0b00110010#8 ++ 0b00000000#8) = .ok .seqnext := by rfl
theorem test_decode_setpad : decode (0b00110011#8 ++ 0b00000000#8) = .ok (.setpad 0x00#8) := by rfl
theorem test_decode_txbegin :
    decode (0b01000000#8 ++ 0b00000000#8) = .ok (.txbegin .soh) ∧
    decode (0b01000000#8 ++ 0b00000001#8) = .ok (.txbegin .stx) := ⟨rfl, rfl⟩
theorem test_decode_txdata : decode (0b01000001#8 ++ 0b00011010#8) = .ok (.txdata 0x1A#8) := by rfl
theorem test_decode_txpad : decode (0b01000010#8 ++ 0b00000000#8) = .ok .txpad := by rfl
theorem test_decode_rxbyte : decode (0b01010000#8 ++ 0b00000001#8) = .ok (.rxbyte 0x01#8) := by rfl

/-- V30, the illegal words of formats Z, R and F: each is refused by name. -/
theorem test_decode_illegal_arguments :
    (∀ w ∈ [0x0001#16, 0x0101#16, 0x0201#16, 0x0301#16, 0x1001#16, 0x2001#16, 0x3201#16, 0x4201#16],
      decode w = .error .argNotZero) ∧
    (∀ w ∈ [0x0808#16, 0x08FF#16], decode w = .error .registerOutOfRange) ∧
    (∀ w ∈ [0x3002#16, 0x4002#16], decode w = .error .flagOutOfRange) := by
  refine ⟨?_, ?_, ?_⟩ <;> simp only [List.forall_mem_cons] <;> simp [decode, decodeFields, opField, argField, decodeZ,
    decodeR, decodeF]

/-- V30, the words of an unassigned op. -/
theorem test_decode_unassigned_op :
    ∀ w ∈ [0x0400#16, 0x0900#16, 0x1200#16, 0x2200#16, 0x3400#16, 0x4300#16, 0x5100#16, 0x5F00#16, 0x8000#16,
      0xFFFF#16], decode w = .error .unassignedOp := by
  simp only [List.forall_mem_cons]
  simp [decode, decodeFields, opField]

/-- The seventeen mnemonics of the opcode map, from one command of each constructor. -/
theorem test_mnemonics : opcodeTable.map (·.mnemonic) =
    [Instr.nop, .init, .errclr, .abort, .rd .crc, .sumclr, .sumbyte 0#8, .crcclr, .crcbyte 0#8, .setmode .checksum,
      .setseq 0#8, .seqnext, .setpad 0#8, .txbegin .soh, .txdata 0#8, .txpad, .rxbyte 0#8].map Instr.mnemonic := by
  decide

/-! ## The functions: S1 to S3, V40, V41 -/

/-- The payload i mod 256 for i = 0 to n - 1. -/
def ramp (n : Nat) : List Byte := (List.range n).map (BitVec.ofNat 8)

/-- The bytes of "123456789". -/
def digits : List Byte := [0x31#8, 0x32#8, 0x33#8, 0x34#8, 0x35#8, 0x36#8, 0x37#8, 0x38#8, 0x39#8]

theorem test_checksum_vectors : checksum [0xFF#8, 0xFF#8] = 0xFE#8 ∧ checksum digits = 0xDD#8 := by decide
theorem test_checksum_ramp : checksum (ramp 128) = 0xC0#8 := by decide +kernel
theorem test_crc16_vectors :
    crc16 [0x01#8, 0x02#8, 0x03#8] = 0x6131#16 ∧ crc16 digits = 0x31C3#16 := by decide +kernel
set_option maxRecDepth 20000 in
theorem test_crc16_ramp : crc16 (ramp 128) = 0xE80A#16 := by decide +kernel
set_option maxRecDepth 20000 in
theorem test_crc16_is_sensitive_to_order : crc16 (0x01#8 :: 0x00#8 :: (ramp 128).drop 2) = 0x4C5B#16 := by decide +kernel

/-! ## Single steps -/

/-- The next state, if the step answers one. -/
def next? (r : Result) : Option State :=
  match r with
  | .next t => some t
  | .fault _ => none
  | .refused _ => none

/-- One step on a command word. -/
def after (w : Nat) (s : State) : Option State := next? (step (s.withFetchWord 16 w))

/-- The reset state with other registers. -/
def with_ (f : Xfc → Xfc) : State := State.reset.update f

/-- Mode chosen, no frame open. -/
def ready (m : Mode) : State := with_ fun x => { x with modev := true, mode := m }

/-- A frame open. -/
def opened (m : Mode) (k : BlockKind) (f : Fsm) (n : Nat) : State :=
  with_ fun x => { x with modev := true, mode := m, blk := k, fsm := f, cnt := BitVec.ofNat 11 n }

/-- V40.3: a transmit frame open, the latch engaged by a command that needs IDLE. -/
def latched : State := with_ fun x => { x with modev := true, fsm := .txpayload, err := .busy }

/-- BUF with the 128 bytes 00 to 7F of the frame G of V44. -/
def bufG : Memory := (List.range' 1 127).map fun a => (a, BitVec.ofNat 8 a)

/-- The frame G taken but for its trailer. -/
def awaitTrailer (seq cmpl : Byte) : State := with_ fun x =>
  { x with modev := true, fsm := .rxtrl1, cnt := 128#11, rseq := seq, rcmp := cmpl, sum := 0xC0#8, crc := 0xE80A#16,
           buf := bufG }

/-- The frame Gc taken but for its last byte. -/
def awaitLastByte : State := with_ fun x =>
  { x with modev := true, mode := .crc16, fsm := .rxtrl2, cnt := 128#11, rseq := 0x01#8, rcmp := 0xFE#8, sum := 0xC0#8,
           crc := 0xE80A#16, rth := 0xE8#8, buf := bufG }

/-- V45.1. -/
theorem test_nop_under_latch : after 0x0000 latched = some latched := by decide
/-- R186's example; V45.2. -/
theorem test_init : after 0x0100 (with_ fun x =>
    { x with seq := 0x07#8, modev := true, mode := .crc16, fsm := .txpayload, err := .busy }) = some State.reset := by
  decide
/-- R187's example. -/
theorem test_errclr : (after 0x0200 (with_ fun x => { x with err := .phase })) = some State.reset := by decide
/-- R188's example. -/
theorem test_abort : (after 0x0300 (opened .checksum .soh .rxpayload 57)).map (fun t => (t.xfc.fsm, t.xfc.cnt)) =
    some (.idle, 0#11) := by decide
/-- V45.6. -/
theorem test_abort_under_latch : after 0x0300 latched = some latched := by decide
/-- R189's example. -/
theorem test_rd_stat : (after 0x0806 (with_ fun x => { x with err := .busy, rxres := .badtrl })).map (·.rsp) =
    some [0x0110#16] := by decide
/-- V43.1: CTRL = 7. -/
theorem test_rd_ctrl : (after 0x0804 (opened .crc16 .stx .txpayload 0)).map (·.rsp) = some [0x0007#16] := by decide
/-- R102's example. -/
theorem test_sumclr : (after 0x1000 (with_ fun x => { x with sum := 0x5C#8 })) = some State.reset := by decide
/-- R103's example. -/
theorem test_sumbyte_wraps : (after 0x11FF (with_ fun x => { x with sum := 0x01#8 })) = some State.reset := by decide
/-- V40.3. -/
theorem test_sumbyte_in_frame : (after 0x1105 (opened .checksum .soh .txpayload 0)).map
    (fun t => (t.xfc.err, t.xfc.sum, t.xfc.fsm)) = some (.busy, 0x00#8, .txpayload) := by decide
/-- R114's example. -/
theorem test_crcclr : (after 0x2000 (with_ fun x => { x with crc := 0x5A76#16 })) = some State.reset := by decide
/-- R115's example; SUM is not touched. -/
theorem test_crcbyte : (after 0x2112 State.reset).map (fun t => (t.xfc.crc, t.xfc.sum)) =
    some (0x3273#16, 0x00#8) := by decide
/-- V41.2. -/
theorem test_crcbyte_in_frame : (after 0x2105 (opened .crc16 .soh .txpayload 0)).map
    (fun t => (t.xfc.err, t.xfc.crc)) = some (.busy, 0x0000#16) := by decide
/-- R126's example. -/
theorem test_setmode : (after 0x3001 State.reset).map (fun t => (t.xfc.modev, t.xfc.mode)) =
    some (true, .crc16) := by decide
/-- V42.5: the check of FSM comes before the check of MODEV. -/
theorem test_setmode_in_frame : (after 0x3000 (opened .crc16 .stx .txpayload 1)).map (fun t => (t.xfc.err, t.xfc.mode)) =
    some (.busy, .crc16) := by decide
/-- R129's example. -/
theorem test_setseq : (after 0x31FF State.reset).map (·.xfc.seq) = some 0xFF#8 := by decide
/-- R130's example. -/
theorem test_seqnext_wraps : (after 0x3200 (with_ fun x => { x with seq := 0xFF#8 })).map (·.xfc.seq) =
    some 0x00#8 := by decide
/-- V42.6. -/
theorem test_seqnext_in_frame : (after 0x3200 (opened .checksum .soh .txpayload 0)).map
    (fun t => (t.xfc.err, t.xfc.seq)) = some (.busy, 0x01#8) := by decide
/-- V42.3. -/
theorem test_setpad : (after 0x3355 State.reset).map (·.xfc.pad) = some 0x55#8 := by decide
/-- V43.1. -/
theorem test_txbegin_stx : (after 0x4001 (ready .crc16)).map (fun t => (t.tx, t.xfc.fsm, t.xfc.blk)) =
    some ([0x02#8, 0x01#8, 0xFE#8], .txpayload, .stx) := by decide
/-- V43.7. -/
theorem test_txbegin_without_mode : (after 0x4000 State.reset).map (fun t => (t.tx, t.xfc.err)) =
    some ([], .nomode) := by decide
/-- R143's example. -/
theorem test_txdata : (after 0x4141 (opened .checksum .soh .txpayload 0)).map
    (fun t => (t.tx, t.xfc.crc, t.xfc.cnt, t.xfc.fsm)) = some ([0x41#8], 0x58E5#16, 1#11, .txpayload) := by decide
/-- P3: the last byte 7F of the frame G is followed by its checksum C0; the sum of 00 to 7E is 8001, 41 modulo 256. -/
theorem test_txdata_last : (after 0x417F ((opened .checksum .soh .txpayload 127).update
    fun x => { x with sum := 0x41#8 })).map (fun t => (t.tx, t.xfc.cnt, t.xfc.fsm)) =
    some ([0x7F#8, 0xC0#8], 128#11, .idle) := by decide
set_option maxRecDepth 20000 in
/-- V43.5: the frame with one data byte AA and 127 pad bytes 00. -/
theorem test_txpad : (after 0x4200 ((opened .checksum .soh .txpayload 1).update
    fun x => { x with pad := 0x00#8, sum := 0xAA#8, crc := crcByte 0x0000#16 0xAA#8 })).map
    (fun t => (t.tx, t.xfc.crc, t.xfc.cnt)) =
    some (List.replicate 127 0x00#8 ++ [0xAA#8], 0x1299#16, 128#11) := by decide +kernel
/-- V43.8: no check of MODEV. -/
theorem test_txpad_without_frame : (after 0x4200 State.reset).map (·.xfc.err) = some .phase := by decide
/-- V44.2: the frame G is good. -/
theorem test_rxbyte_good_frame : (after 0x50C0 (awaitTrailer 0x01#8 0xFE#8)).map
    (fun t => (t.rx, t.xfc.rxres, t.xfc.fsm, t.xfc.seq)) = some (ramp 128, .ok, .idle, 0x01#8) := by decide +kernel
/-- V44.6: complement, sequence and trailer all wrong. -/
theorem test_rxbyte_complement_is_checked_first : (after 0x5000 (awaitTrailer 0x05#8 0x00#8)).map
    (fun t => (t.rx, t.xfc.rxres, t.xfc.err)) = some ([], .badcmpl, .none) := by decide

/-! ## Assembler lines (R79, R80) -/

theorem test_assemble_comment_and_decimal :
    assembleLine ("SUMBYTE 255 # carry is lost".toList) = some [.sumbyte 0xFF#8] := by decide +kernel
theorem test_assemble_symbolic : assembleLine ("TXBEGIN STX".toList) = some [.txbegin .stx] := by decide +kernel
theorem test_assemble_pseudo : assembleLine ("CHECKSUM 0x01, 0xFF".toList) =
    some [.sumclr, .sumbyte 0x01#8, .sumbyte 0xFF#8, .rd .sum] := by decide +kernel
theorem test_assemble_refuses : assembleLine ("SUMBYTE 256".toList) = none := by decide +kernel

/-! ## Witnesses: for each statement with hypotheses, states and operands that meet them together

A statement's name follows witness_. -/

/-- A state with the word offered. -/
def offered (w : Word) (s : State) : State := { s with input := [.command w] }

theorem witness_DecoderFollowsTheOpcodeMap :
    (∃ r ∈ opcodeTable, r.accepts 0x0807#16 = true) ∧ (∀ r ∈ opcodeTable, r.accepts 0x0808#16 = false) := by decide
theorem witness_LegalWordsAreTheAssignedOnes :
    (offered 0x0001#16 State.reset).input = .command 0x0001#16 :: [] ∧ (¬ ∃ i, decode 0x0001#16 = .ok i) ∧
    (offered 0x0001#16 State.reset).xfc.err = .none ∧ (offered 0x0001#16 latched).xfc.err ≠ .none := by
  refine ⟨rfl, ?_, rfl, by decide⟩
  rw [show decode 0x0001#16 = .error .argNotZero by rfl]
  simp
theorem witness_PseudoInstructionsExpandAsListed :
    (1 ≤ [0x00#8].length ∧ [0x00#8].length < size .soh) ∧
    (1 ≤ (ramp 1023).length ∧ (ramp 1023).length < size .stx) ∧
    (ramp 128).length = size .soh ∧ (ramp 1024).length = size .stx := by
  simp [ramp, size]
theorem witness_StepExecutesTheDecodedCommand :
    (offered 0x0806#16 latched).input = .command 0x0806#16 :: [] ∧ decode 0x0806#16 = .ok (.rd .stat) ∧
    decode 0xFFFF#16 = .error .unassignedOp ∧ (offered 0xFFFF#16 State.reset).xfc.err = .none ∧
    (offered 0xFFFF#16 latched).xfc.err ≠ .none ∧
    decodeTableWord 16 0x50FF = some (.rxbyte 0xFF#8) := ⟨rfl, rfl, rfl, rfl, by decide, rfl⟩
theorem witness_NothingOfferedChangesNothing : (opened .crc16 .stx .rxpayload 1023).input = [] := rfl
/-- Also for FramerFollowsTheTransitionTable and LatchIgnoresAllButFourCommands, their clauses about rst. -/
theorem witness_ResetAndInitSetTheTableOfResetValues :
    { latched with input := [.rst] }.input = .rst :: [] ∧ { latched with input := [.rst] }.xfc.err ≠ .none := by decide

/-- The latch open and engaged: AbortAbandonsTheFrame. -/
theorem witness_AbortAbandonsTheFrame :
    (opened .checksum .soh .rxpayload 57).xfc.err = .none ∧ latched.xfc.err ≠ .none := by decide
theorem witness_RdAnswersTheViewAndChangesNothing :
    (0x0808#16 : Word) ≤ 0x0808#16 ∧ (0x0808#16 : Word) ≤ 0x08FF#16 ∧ (0x0808#16 : Word) ≤ 0x08FF#16 ∧
    (0x08FF#16 : Word) ≤ 0x08FF#16 := by decide

/-- No frame open, and a frame of either direction open, with ERR = NONE: SumclrClearsTheChecksum, SumbyteAddsModulo256,
CrcclrClearsTheCrc, CrcbyteFeedsEightBits, SetseqWritesTheSequenceNumber, SeqnextAdvancesModulo256,
SetpadWritesThePadByte. -/
theorem witness_SumclrClearsTheChecksum_and_the_other_idle_commands :
    (State.reset.xfc.err = .none ∧ State.reset.xfc.fsm = .idle) ∧
    ((opened .checksum .stx .txpayload 1023).xfc.err = .none ∧ (opened .checksum .stx .txpayload 1023).xfc.fsm ≠ .idle) ∧
    ((opened .crc16 .soh .rxtrl2 128).xfc.err = .none ∧ (opened .crc16 .soh .rxtrl2 128).xfc.fsm ≠ .idle) := by decide

theorem witness_ChecksumIsTheRunningSumAndAdditive : [0x01#8, 0x02#8].Perm [0x02#8, 0x01#8] := by decide
/-- Also for CrcCommandsAnswerTheCrc. -/
theorem witness_ChecksumCommandsAnswerTheChecksum :
    (ready .crc16).xfc.err = .none ∧ (ready .crc16).xfc.fsm = .idle ∧ (ready .crc16).xfc.sum = 0x00#8 ∧
    (ready .crc16).xfc.crc = 0x0000#16 := by decide
theorem witness_CrcLinearityResidueAndBijectivity : [0x12#8, 0x34#8].length = [0xFF#8, 0x00#8].length := rfl

theorem witness_SetmodeChoosesTheModeOnce :
    ((0x3002#16 : Word) ≤ 0x3002#16 ∧ (0x3002#16 : Word) ≤ 0x30FF#16) ∧
    (State.reset.xfc.err = .none ∧ State.reset.xfc.fsm = .idle ∧ State.reset.xfc.modev = false) ∧
    ((ready .crc16).xfc.err = .none ∧ (ready .crc16).xfc.fsm = .idle ∧ (ready .crc16).xfc.modev = true) ∧
    ((opened .crc16 .stx .txpayload 1).xfc.err = .none ∧ (opened .crc16 .stx .txpayload 1).xfc.fsm ≠ .idle) := by decide

theorem witness_ModeIsFixedForTheSession :
    .init ∉ [Instr.txbegin .soh, .abort] ∧ (ready .crc16).xfc.modev = true ∧
    (next? (runCommands [.txbegin .soh, .abort] (ready .crc16))).isSome = true ∧
    (State.reset.xfc.fsm ≠ .idle → State.reset.xfc.modev = true) ∧
    (next? (runCommands [.setmode .crc16, .txbegin .soh] State.reset)).map (·.xfc.fsm) = some .txpayload := by decide

theorem witness_TxbeginOpensAFrame :
    ((0x4002#16 : Word) ≤ 0x40FF#16 ∧ (0x40FF#16 : Word) ≤ 0x40FF#16) ∧
    ((ready .checksum).xfc.err = .none ∧ (ready .checksum).xfc.fsm = .idle ∧ (ready .checksum).xfc.modev = true) ∧
    (State.reset.xfc.err = .none ∧ State.reset.xfc.fsm = .idle ∧ State.reset.xfc.modev = false) ∧
    ((opened .checksum .soh .rxseq 0).xfc.err = .none ∧ (opened .checksum .soh .rxseq 0).xfc.fsm ≠ .idle) := by decide

/-- CNT at 0, at the last but one and at the last byte of each block size; no transmit frame. -/
theorem witness_TxdataEmitsAByteAndTheTrailerAfterTheLast :
    (∀ s ∈ [opened .checksum .soh .txpayload 0, opened .crc16 .soh .txpayload 126, opened .crc16 .stx .txpayload 1022],
      s.xfc.err = .none ∧ s.xfc.fsm = .txpayload ∧ s.xfc.cnt.toNat + 1 < size s.xfc.blk) ∧
    (∀ s ∈ [opened .checksum .soh .txpayload 127, opened .crc16 .stx .txpayload 1023],
      s.xfc.err = .none ∧ s.xfc.fsm = .txpayload ∧ s.xfc.cnt.toNat + 1 = size s.xfc.blk) ∧
    ((ready .crc16).xfc.err = .none ∧ (ready .crc16).xfc.fsm ≠ .txpayload) := by decide

/-- Also for TxpadFillsEmitsTheTrailerAndCloses. -/
theorem witness_TxpadEqualsTheRemainingTxdataOfPad :
    (∀ s ∈ [opened .checksum .soh .txpayload 0, opened .crc16 .soh .txpayload 127, opened .crc16 .stx .txpayload 1023],
      s.xfc.err = .none ∧ s.xfc.fsm = .txpayload ∧ s.xfc.cnt.toNat < size s.xfc.blk) ∧
    ((ready .crc16).xfc.err = .none ∧ (ready .crc16).xfc.fsm ≠ .txpayload) := by decide

/-- Also for EncodedFrameLayout, ReceiveCommandsDecodeAndValidateTheFrame and RoundTripReleasesThePayload. -/
theorem witness_ComplementByteAndItsCheck :
    (encodeFrame 0x01#8 (ramp 128) .checksum).isSome = true ∧ (ramp 128).length = size .soh ∧
    (encodeFrame 0x00#8 (ramp 1024) .crc16).isSome = true ∧ (ramp 1024).length = size .stx := by
  refine ⟨?_, ?_, ?_, ?_⟩ <;> simp [encodeFrame, kindOfLength, ramp, size]

/-- No, one, all but one and all of a block's bytes. -/
theorem witness_TransmitCommandsEmitTheEncodedFrame :
    ((ready .crc16).xfc.err = .none ∧ (ready .crc16).xfc.fsm = .idle ∧ (ready .crc16).xfc.modev = true) ∧
    (ramp 0).length ≤ size .soh ∧ (ramp 1).length ≤ size .stx ∧ (ramp 127).length ≤ size .soh ∧
    (ramp 1024).length ≤ size .stx := by
  refine ⟨by decide, ?_, ?_, ?_, ?_⟩ <;> simp [ramp, size]

theorem witness_SuccessiveFramesAreNumberedModulo256 :
    ((ready .checksum).xfc.err = .none ∧ (ready .checksum).xfc.fsm = .idle ∧ (ready .checksum).xfc.modev = true ∧
      (ready .checksum).xfc.seq = 0x01#8) ∧
    ∀ f ∈ [(BlockKind.soh, ramp 1), (.soh, ramp 3)], f.2.length ≤ size f.1 := by decide

/-- Every first byte of interest; both frame headers; no mode; a transmit frame open. -/
theorem witness_RxbyteOpensAFrameOrReportsNoHeader :
    ((ready .crc16).xfc.err = .none ∧ (ready .crc16).xfc.fsm = .idle ∧ (ready .crc16).xfc.modev = true) ∧
    (∀ b ∈ [0x00#8, 0x03#8, 0x04#8, 0x18#8, 0xFF#8], b ≠ 0x01#8 ∧ b ≠ 0x02#8) ∧
    (State.reset.xfc.err = .none ∧ State.reset.xfc.fsm = .idle ∧ State.reset.xfc.modev = false) ∧
    ((opened .crc16 .soh .txpayload 1).xfc.err = .none ∧ (opened .crc16 .soh .txpayload 1).xfc.fsm = .txpayload) := by
  decide

theorem witness_RxbyteHoldsSequenceComplementAndHighCrcByte :
    ((opened .checksum .soh .rxseq 0).xfc.err = .none ∧ (opened .checksum .soh .rxseq 0).xfc.fsm = .rxseq) ∧
    ((opened .crc16 .stx .rxcmpl 0).xfc.err = .none ∧ (opened .crc16 .stx .rxcmpl 0).xfc.fsm = .rxcmpl) ∧
    ((opened .crc16 .stx .rxtrl1 1024).xfc.err = .none ∧ (opened .crc16 .stx .rxtrl1 1024).xfc.fsm = .rxtrl1 ∧
      (opened .crc16 .stx .rxtrl1 1024).xfc.mode = .crc16) := by decide

theorem witness_RxbyteStoresAPayloadByte :
    ∀ s ∈ [opened .checksum .soh .rxpayload 0, opened .checksum .soh .rxpayload 127, opened .crc16 .stx .rxpayload 1023],
      s.xfc.err = .none ∧ s.xfc.fsm = .rxpayload ∧ s.xfc.cnt.toNat < 1024 := by decide

theorem witness_ModelChoicesOutsideTheInvariant :
    (∀ s ∈ [opened .checksum .soh .rxpayload 1024, opened .crc16 .stx .rxpayload 2047],
      s.xfc.err = .none ∧ s.xfc.fsm = .rxpayload ∧ 1024 ≤ s.xfc.cnt.toNat) ∧
    (∀ s ∈ [opened .checksum .soh .txpayload 128, opened .crc16 .stx .txpayload 2047],
      s.xfc.err = .none ∧ s.xfc.fsm = .txpayload ∧ size s.xfc.blk ≤ s.xfc.cnt.toNat) := by decide

/-- Both ways a frame ends and each of the four verdicts (V44.2 to V44.7). -/
theorem witness_VerdictChecksComplementSequenceTrailer :
    (let s := awaitTrailer 0x01#8 0xFE#8
     s.xfc.err = .none ∧ s.xfc.fsm = .rxtrl1 ∧ s.xfc.mode = .checksum ∧ (True ↔ 0xC0#8 = s.xfc.sum) ∧
      (False ↔ 0xBF#8 = s.xfc.sum) ∧ s.xfc.rseq.toNat + s.xfc.rcmp.toNat = 0xFF ∧ s.xfc.rseq = s.xfc.seq) ∧
    (let s := awaitLastByte
     s.xfc.err = .none ∧ s.xfc.fsm = .rxtrl2 ∧
      (True ↔ 256 * s.xfc.rth.toNat + (0x0A#8).toNat = s.xfc.crc.toNat) ∧
      (False ↔ 256 * s.xfc.rth.toNat + (0x0B#8).toNat = s.xfc.crc.toNat) ∧
      s.xfc.rseq.toNat + s.xfc.rcmp.toNat = 0xFF ∧ s.xfc.rseq = s.xfc.seq) ∧
    (let s := awaitTrailer 0x01#8 0xFF#8
     s.xfc.rseq.toNat + s.xfc.rcmp.toNat ≠ 0xFF) ∧
    (let s := awaitTrailer 0x02#8 0xFD#8
     s.xfc.rseq.toNat + s.xfc.rcmp.toNat = 0xFF ∧ s.xfc.rseq ≠ s.xfc.seq) := by
  simp only [true_iff, false_iff]
  decide

theorem witness_ReceiveCommandsDecodeAndValidateTheFrame :
    ((ready .checksum).xfc.err = .none ∧ (ready .checksum).xfc.fsm = .idle ∧ (ready .checksum).xfc.modev = true) ∧
    [0xC0#8].length = tlen (ready .checksum).xfc.mode ∧ [0xE8#8, 0x0A#8].length = tlen (ready .crc16).xfc.mode := by
  decide
theorem witness_RoundTripReleasesThePayload :
    let r := (ready .crc16).update fun x => { x with pad := 0x00#8, cnt := 1024#11, blk := .stx }
    r.xfc.err = .none ∧ r.xfc.fsm = .idle ∧ r.xfc.modev = true ∧ r.xfc.seq = (ready .crc16).xfc.seq ∧
      r.xfc.mode = (ready .crc16).xfc.mode := by decide

theorem witness_LatchIgnoresAllButFourCommands :
    latched.xfc.err ≠ .none ∧ (offered 0x0001#16 latched).input = .command 0x0001#16 :: [] ∧
    decode 0x0001#16 = .error .argNotZero ∧
    (next? (exec .errclr latched)).map (·.xfc.err) = some .none := by
  refine ⟨by decide, rfl, rfl, by decide⟩
theorem witness_RejectionChangesNothingButErr :
    (next? (exec .seqnext (opened .checksum .soh .txpayload 0))).map (fun t => decide (t.xfc.err ≠ .none)) = some true ∧
    (next? (step (offered 0x0400#16 State.reset))).map (fun t => decide (t.xfc.err ≠ State.reset.xfc.err)) =
      some true := by decide
theorem witness_PreconditionTableGivesTheRejection :
    decode 0x0400#16 = .error .unassignedOp ∧ State.reset.xfc.err = .none ∧
    failedCheck (.txbegin .soh) State.reset.xfc = some .nomode ∧ failedCheck .nop State.reset.xfc = none ∧
    latched.xfc.err ≠ .none ∧ executesLatched .abort = false := ⟨rfl, by decide⟩
theorem witness_WriteMapListsEveryWriter :
    mayWrite .crc (.sumbyte 0x01#8) State.reset.xfc = false ∧ mayWrite .cnt .txpad latched.xfc = true ∧
    mayWrite .blk (.rxbyte 0x04#8) (ready .crc16).xfc = false ∧
    (next? (exec (.rxbyte 0x04#8) (ready .crc16))).isSome = true := by decide
theorem witness_FramerFollowsTheTransitionTable :
    (∀ s ∈ [opened .checksum .soh .txpayload 127, opened .crc16 .stx .rxpayload 1023, ready .crc16],
      s.xfc.fsm = .txpayload ∨ s.xfc.fsm = .rxpayload → s.xfc.cnt.toNat < size s.xfc.blk) ∧
    executes (.rxbyte 0x01#8) (ready .crc16).xfc = true ∧ executes .txpad (ready .crc16).xfc = false ∧
    (next? (exec (.rxbyte 0x01#8) (ready .crc16))).map (·.xfc.fsm) = some .rxseq := by decide
theorem witness_StreamsOnlyGrowAndBySomeCommandsOnly :
    (next? (exec (.txbegin .soh) (ready .crc16))).map (·.tx) = some [0x01#8, 0x01#8, 0xFE#8] := by decide
theorem witness_BufChangesOnlyAtCntInRxpayload :
    (next? (exec (.rxbyte 0x41#8) (opened .checksum .soh .rxpayload 127))).map
      (fun t => (t.xfc.buf.read 127, t.xfc.buf.read 126)) = some (0x41#8, 0x00#8) := by decide

/-- A state with an open transmit frame and one with an open receive frame, both other than the state after reset. -/
def midTransmit : State :=
  { opened .crc16 .soh .txpayload 1 with
    xfc := { (opened .crc16 .soh .txpayload 1).xfc with sum := 0x41#8, crc := 0x58E5#16 }
    tx := [0x01#8, 0x01#8, 0xFE#8, 0x41#8]
    input := [.command 0x4142#16] }

def midReceive : State :=
  { opened .checksum .stx .rxpayload 1 with
    xfc := { (opened .checksum .stx .rxpayload 1).xfc with sum := 0x41#8, crc := 0x58E5#16, buf := [(0, 0x41#8)] }
    input := [.command 0x5042#16] }

theorem witness_EveryStepAnswersANextState :
    (offered 0x4142#16 latched).input = .command 0x4142#16 :: [] := rfl

theorem witness_EveryStepKeepsTheInvariant :
    Inv midTransmit ∧ (next? (step midTransmit)).map (·.xfc.cnt) = some 2#11 := by
  refine ⟨?_, by decide⟩
  constructor <;> try decide
  exact fun _ => ⟨[], [0x41#8], by decide⟩

theorem witness_ReachableStatesHaveTheInvariant :
    ∃ s, Reachable s ∧ s.xfc.modev = true ∧ s.xfc.mode = .crc16 :=
  ⟨_, .step (.start [.command 0x3001#16]) rfl, rfl, rfl⟩

theorem witness_UnwrittenBufIsUnobservable :
    Inv midReceive ∧
    DifferOnlyInHiddenBuf midReceive
      { midReceive with xfc := { midReceive.xfc with buf := [(0, 0x41#8), (1, 0xEE#8), (1023, 0x77#8)] } } ∧
    ∃ t, Host.Core.run Sys2Proof.core 1 midReceive = .next t := by
  refine ⟨?_, ⟨rfl, ?_⟩, ⟨_, rfl⟩⟩
  · constructor <;> try decide
    intro h
    cases h
  · intro _ a ha
    have : a = 0 := by
      have h1 : midReceive.xfc.cnt.toNat = 1 := by decide
      omega
    subst this
    decide

theorem witness_RunOverOfferedWordsIsTheCommandSequence : State.reset.input = [] := rfl

end Sys2Proof.Tests
end

section
/-! PROOF. The family 00_scope.md: the step is total (R8), and a run over offered words is the command sequence
(R7, R63). Both rest on one fact about every command: what it does is fixed by XFC's fifteen items alone. -/

namespace Sys2Proof.Machine

/-! ## The decoder on encoded words -/

@[simp] theorem decode_encode (i : Instr) : decode (encode i) = .ok i := by
  rw [encode, decode_commandWord]
  cases i with
  | rd r => cases r <;> rfl
  | setmode m => cases m <;> rfl
  | txbegin k => cases k <;> rfl
  | _ => rfl

/-! ## The step, by what is offered -/

theorem step_nothing {s : State} (h : s.input = []) : step s = .next s := by
  rw [step, takeEvent_nil h]

theorem step_rst {s : State} {rest : List HostEvent} (h : s.input = .rst :: rest) :
    step s = .next (assertReset { s with input := rest }) := by
  rw [step, takeEvent_cons h]

theorem step_command_ok {s : State} {w : Word} {rest : List HostEvent} {i : Instr}
    (h : s.input = .command w :: rest) (hw : decode w = .ok i) : step s = exec i { s with input := rest } := by
  simp only [step, takeEvent_cons h, hw]

theorem step_command_error {s : State} {w : Word} {rest : List HostEvent} {e : DecodeError}
    (h : s.input = .command w :: rest) (hw : decode w = .error e) :
    step s = illegalWord { s with input := rest } := by
  simp only [step, takeEvent_cons h, hw]

/-! ## Operations fixed by the fifteen items -/

/-- What a step on a word gives (R8): the next items, bytes for tx, bytes for rx, at most one value for rsp. -/
abbrev Answer := Xfc × List Byte × List Byte × Option Word

/-- The next items replace the old ones, the outputs go to the ends of their streams, and nothing else is touched. -/
def State.deliver (s : State) (a : Answer) : State :=
  { s with xfc := a.1, tx := s.tx ++ a.2.1, rx := s.rx ++ a.2.2.1, rsp := s.rsp ++ a.2.2.2.toList }

/-- In every state whose items are x, the operation k answers a next state, by one and the same answer. -/
def LocalAt (x : Xfc) (k : State → Result) : Prop :=
  ∃ a : Answer, ∀ s : State, s.xfc = x → k s = .next (s.deliver a)

section
variable {x : Xfc} {k k' : State → Result}

theorem localAt_congr (h : ∀ s : State, s.xfc = x → k s = k' s) (hk : LocalAt x k') : LocalAt x k := by
  obtain ⟨a, ha⟩ := hk
  exact ⟨a, fun s hs => (h s hs).trans (ha s hs)⟩

/-- A branch on the items is taken the same way in every state that has them. -/
theorem localAt_ite (p : Xfc → Prop) [DecidablePred p] (hk : LocalAt x k) (hk' : LocalAt x k') :
    LocalAt x fun s => if p s.xfc then k s else k' s := by
  by_cases hp : p x
  · exact localAt_congr (fun s hs => if_pos (hs ▸ hp)) hk
  · exact localAt_congr (fun s hs => if_neg (hs ▸ hp)) hk'

theorem localAt_update (g : Xfc → Xfc) : LocalAt x fun s => .next (s.update g) :=
  ⟨(g x, [], [], none), by rintro s rfl; simp [State.deliver, State.update]⟩

theorem localAt_unchanged : LocalAt x .next := localAt_update id

theorem localAt_reject (code : Err) : LocalAt x (reject code) := localAt_update _

theorem localAt_unlessLatched (hk : LocalAt x k) : LocalAt x fun s => unlessLatched s (k s) :=
  localAt_ite (·.err = .none) hk localAt_unchanged

theorem localAt_requireIdle (hk : LocalAt x k) : LocalAt x fun s => requireIdle s (k s) :=
  localAt_ite (·.fsm = .idle) hk (localAt_reject .busy)

theorem localAt_requireTxPayload (hk : LocalAt x k) : LocalAt x fun s => requireTxPayload s (k s) :=
  localAt_ite (·.fsm = .txpayload) hk (localAt_reject .phase)

theorem localAt_requireMode (hk : LocalAt x k) : LocalAt x fun s => requireMode s (k s) :=
  localAt_ite (·.modev = true) hk (localAt_reject .nomode)

theorem localAt_requireNoMode (hk : LocalAt x k) : LocalAt x fun s => requireNoMode s (k s) :=
  localAt_ite (·.modev = false) hk (localAt_reject .modelock)

theorem localAt_illegalWord : LocalAt x illegalWord := localAt_unlessLatched (localAt_reject .illegal)

end

/-! ## The commands with output, and RXBYTE -/

section
variable (x : Xfc) (b : Byte)

theorem localAt_respond (g : Xfc → Word) : LocalAt x fun s => .next (s.respond (g s.xfc)) :=
  ⟨(x, [], [], some (g x)), by rintro s rfl; simp [State.deliver, State.respond]⟩

theorem localAt_emitTx_update (bs : Xfc → List Byte) (g : Xfc → Xfc) :
    LocalAt x fun s => .next ((s.emitTx (bs s.xfc)).update g) :=
  ⟨(g x, bs x, [], none), by rintro s rfl; simp [State.deliver, State.emitTx, State.update]⟩

/-- n payload bytes and then the trailer (R143, R145). -/
theorem localAt_txPutMany_txClose (n : Xfc → Nat) (b : Xfc → Byte) :
    LocalAt x fun s => .next (txClose (txPutMany (n s.xfc) (b s.xfc) s)) := by
  refine ⟨((txClose (txPutMany (n x) (b x) { State.reset with xfc := x })).xfc,
    (txClose (txPutMany (n x) (b x) { State.reset with xfc := x })).tx, [], none), ?_⟩
  rintro s rfl
  simp [txClose_eq, txPutMany_eq, State.deliver, State.reset]

theorem localAt_verdict (ok : Xfc → Bool) : LocalAt x fun s => .next (verdict (ok s.xfc) s) :=
  ⟨({ x with rxres := verdictCode (ok x) x, fsm := .idle }, [],
      if verdictCode (ok x) x = .ok then releasedPayload x else [], none), by
    rintro s rfl; simp [State.deliver, verdict_eq, releasedPayload]⟩

theorem localAt_execTxdata : LocalAt x (execTxdata b) := by
  have put : LocalAt x fun s => .next (txPut b s) := localAt_emitTx_update x (fun _ => [b]) (countByte b)
  have putClose : LocalAt x fun s => .next (txClose (txPut b s)) :=
    localAt_txPutMany_txClose x (fun _ => 1) (fun _ => b)
  have both := localAt_ite (fun x => payloadDone (countByte b x) = true) putClose put
  refine localAt_unlessLatched (localAt_requireTxPayload (localAt_congr (fun s _ => ?_) both))
  exact apply_ite Host.Outcome.next _ _ _

theorem localAt_rxIdle : LocalAt x fun s => .next (rxIdle b s) := by
  cases h : headerKind b with
  | none => exact localAt_congr (fun s _ => by rw [rxIdle, h]) (localAt_update _)
  | some k => exact localAt_congr (fun s _ => by rw [rxIdle, h]) (localAt_update _)

theorem localAt_rxTrailer1 : LocalAt x fun s => .next (rxTrailer1 b s) := by
  cases h : x.mode with
  | checksum =>
    exact localAt_congr (fun s hs => by simp only [rxTrailer1, hs, h]) (localAt_verdict x fun x => b == x.sum)
  | crc16 => exact localAt_congr (fun s hs => by simp only [rxTrailer1, hs, h]; rfl) (localAt_update _)

theorem localAt_rxTrailer2 : LocalAt x fun s => .next (rxTrailer2 b s) :=
  localAt_verdict x fun x => joinBytes x.rth b == x.crc

theorem localAt_execRxbyte : LocalAt x (execRxbyte b) := by
  refine localAt_unlessLatched ?_
  cases h : x.fsm with
  | idle => exact localAt_congr (fun s hs => by rw [hs, h]) (localAt_requireMode (localAt_rxIdle x b))
  | txpayload => exact localAt_congr (fun s hs => by rw [hs, h]) (localAt_reject .phase)
  | rxseq => exact localAt_congr (fun s hs => by rw [hs, h]; rfl) (localAt_update _)
  | rxcmpl => exact localAt_congr (fun s hs => by rw [hs, h]; rfl) (localAt_update _)
  | rxpayload => exact localAt_congr (fun s hs => by rw [hs, h]; rfl) (localAt_update _)
  | rxtrl1 => exact localAt_congr (fun s hs => by rw [hs, h]) (localAt_rxTrailer1 x b)
  | rxtrl2 => exact localAt_congr (fun s hs => by rw [hs, h]) (localAt_rxTrailer2 x b)

end

/-! ## Every command and every word -/

/-- Every command answers a next state, and what it does is fixed by the fifteen items (R8). -/
theorem localAt_exec (x : Xfc) (i : Instr) : LocalAt x (exec i) :=
  match i with
  | .nop => localAt_unchanged
  | .init => localAt_update _
  | .errclr => localAt_update _
  | .abort => localAt_unlessLatched (localAt_update _)
  | .rd r => localAt_respond x (view r)
  | .sumclr => localAt_unlessLatched (localAt_requireIdle (localAt_update _))
  | .sumbyte _ => localAt_unlessLatched (localAt_requireIdle (localAt_update _))
  | .crcclr => localAt_unlessLatched (localAt_requireIdle (localAt_update _))
  | .crcbyte _ => localAt_unlessLatched (localAt_requireIdle (localAt_update _))
  | .setmode _ => localAt_unlessLatched (localAt_requireIdle (localAt_requireNoMode (localAt_update _)))
  | .setseq _ => localAt_unlessLatched (localAt_requireIdle (localAt_update _))
  | .seqnext => localAt_unlessLatched (localAt_requireIdle (localAt_update _))
  | .setpad _ => localAt_unlessLatched (localAt_requireIdle (localAt_update _))
  | .txbegin k =>
    localAt_unlessLatched (localAt_requireIdle (localAt_requireMode
      (localAt_emitTx_update x (fun x => [hdr k, x.seq, complement x.seq]) _)))
  | .txdata b => localAt_execTxdata x b
  | .txpad =>
    localAt_unlessLatched (localAt_requireTxPayload
      (localAt_txPutMany_txClose x (fun x => size x.blk - x.cnt.toNat) (·.pad)))
  | .rxbyte b => localAt_execRxbyte x b

theorem exec_total (i : Instr) (s : State) : ∃ t, exec i s = .next t := by
  obtain ⟨a, ha⟩ := localAt_exec s.xfc i
  exact ⟨_, ha s rfl⟩

/-- What a step on a word gives is fixed by the items and the word, legal or not. -/
theorem step_command_answer (x : Xfc) (w : Word) :
    ∃ a : Answer, ∀ (s : State) (rest : List HostEvent), s.xfc = x → s.input = .command w :: rest →
      step s = .next ({ s with input := rest }.deliver a) := by
  cases hw : decode w with
  | ok i =>
    obtain ⟨a, ha⟩ := localAt_exec x i
    exact ⟨a, fun s rest hs hin => (step_command_ok hin hw).trans (ha { s with input := rest } hs)⟩
  | error e =>
    obtain ⟨a, ha⟩ := localAt_illegalWord (x := x)
    exact ⟨a, fun s rest hs hin => (step_command_error hin hw).trans (ha { s with input := rest } hs)⟩

theorem step_total (s : State) : ∃ t, step s = .next t := by
  cases hin : s.input with
  | nil => exact ⟨_, step_nothing hin⟩
  | cons e rest =>
    cases e with
    | rst => exact ⟨_, step_rst hin⟩
    | command w =>
      obtain ⟨a, ha⟩ := step_command_answer s.xfc w
      exact ⟨_, ha s rest rfl hin⟩

/-- Settles O58: the answer to a word, chosen for each value of the items, is the function the statement asks for. -/
theorem everyStepAnswersANextState : Obligations.EveryStepAnswersANextState := by
  unfold Obligations.EveryStepAnswersANextState
  choose f hf using step_command_answer
  exact ⟨step_total, exec_total, f, fun s w rest hin => hf s.xfc w s rest rfl hin⟩

/-! ## Runs over offered words -/

@[simp] theorem offer_nil (s : State) : offer [] s = s := by
  simp [offer]

/-- What a command did in one state it does in every state with the same items. -/
theorem exec_same_items {i : Instr} {s t : State} (h : exec i s = .next t) :
    ∃ a : Answer, t = s.deliver a ∧ ∀ s' : State, s'.xfc = s.xfc → exec i s' = .next (s'.deliver a) := by
  obtain ⟨a, ha⟩ := localAt_exec s.xfc i
  exact ⟨a, Host.Outcome.next.inj (h.symm.trans (ha s rfl)), ha⟩

/-- A command does not look at what is offered after it and leaves it offered. -/
theorem exec_offer {i : Instr} {s t : State} (ws : List Word) (h : exec i s = .next t) :
    exec i (offer ws s) = .next (offer ws t) := by
  obtain ⟨a, rfl, ha⟩ := exec_same_items h
  exact ha (offer ws s) rfl

theorem exec_input {i : Instr} {s t : State} (h : exec i s = .next t) : t.input = s.input := by
  obtain ⟨a, rfl, -⟩ := exec_same_items h
  rfl

/-- The step takes the first word offered, executes its command, and the other words stay offered. -/
theorem step_offer_encode {i : Instr} {s t : State} (ws : List Word) (hin : s.input = [])
    (h : exec i s = .next t) : step (offer (encode i :: ws) s) = .next (offer ws t) := by
  have hfirst : (offer (encode i :: ws) s).input = .command (encode i) :: ws.map .command := by simp [hin]
  have hrest : { offer (encode i :: ws) s with input := ws.map .command } = offer ws s := by simp [offer, hin]
  rw [step_command_ok hfirst (decode_encode i), hrest, exec_offer ws h]

theorem run_succ {s t : State} (n : Nat) (h : step s = .next t) :
    Host.Core.run Sys2Proof.core (n + 1) s = Host.Core.run Sys2Proof.core n t := by
  have hcore : Sys2Proof.core.step s = .next t := h
  simp only [Host.Core.run, hcore]

theorem runCommands_cons {i : Instr} {s t : State} (is : List Instr) (h : exec i s = .next t) :
    runCommands (i :: is) s = runCommands is t := by
  simp only [runCommands, h]

/-- Settles O60, by induction on the command sequence. -/
theorem runOverOfferedWordsIsTheCommandSequence : Obligations.RunOverOfferedWordsIsTheCommandSequence := by
  unfold Obligations.RunOverOfferedWordsIsTheCommandSequence
  intro is
  induction is with
  | nil =>
    intro s hin
    exact congrArg Host.Outcome.next (offer_nil s)
  | cons i is ih =>
    intro s hin
    obtain ⟨t, ht⟩ := exec_total i s
    rw [runCommands_cons is ht, ← ih t ((exec_input ht).trans hin)]
    exact run_succ _ (step_offer_encode _ hin ht)

end Sys2Proof.Machine
end

section
/-! PROOF. The family 10_state.md, rules its proofs share: what a step can do, what a command does by the latch and the
precondition table, and RXBYTE by its branches. -/

namespace Sys2Proof.Machine

/-! ## What a step can do -/

/-- Everything a step can do: nothing is offered, or rst is asserted, or a word is legal and executed, or illegal. -/
theorem step_cases {s t : State} (h : step s = .next t) :
    (s.input = [] ∧ t = s) ∨
    (∃ rest, s.input = .rst :: rest ∧ t = assertReset { s with input := rest }) ∨
    (∃ w rest i, s.input = .command w :: rest ∧ decode w = .ok i ∧ exec i { s with input := rest } = .next t) ∨
    (∃ w rest e, s.input = .command w :: rest ∧ decode w = .error e ∧
      illegalWord { s with input := rest } = .next t) := by
  cases hin : s.input with
  | nil => exact .inl ⟨rfl, Host.Outcome.next.inj (h.symm.trans (step_nothing hin))⟩
  | cons ev rest =>
    right
    cases ev with
    | rst => exact .inl ⟨rest, rfl, Host.Outcome.next.inj (h.symm.trans (step_rst hin))⟩
    | command w =>
      right
      cases hw : decode w with
      | ok i => exact .inl ⟨w, rest, i, rfl, hw, (step_command_ok hin hw).symm.trans h⟩
      | error e => exact .inr ⟨w, rest, e, rfl, hw, (step_command_error hin hw).symm.trans h⟩

/-! ## What a command does, from the tables

The converse of exec_cases: a command is ignored, rejected or executed as the latch and the precondition table say. -/

section
variable {i : Instr} {s t t' : State}

/-- What a command that executes does is determined. -/
theorem effect_unique (h : Effect i s t) (h' : Effect i s t') : t = t' := by
  cases i with
  | nop | init | errclr | abort | rd => exact Eq.trans h (Eq.symm h')
  | setmode | txbegin =>
    obtain ⟨-, -, rfl⟩ := h
    exact h'.2.2.symm
  | rxbyte b =>
    rcases h with ⟨hf, -, rfl⟩ | ⟨hf, rfl⟩ | ⟨hf, rfl⟩ | ⟨hf, rfl⟩ | ⟨hf, rfl⟩ | ⟨hf, rfl⟩ <;>
      simp only [Effect, hf, reduceCtorEq, false_and, true_and, or_false, false_or] at h'
    · exact h'.2.symm
    all_goals exact h'.symm
  | _ =>
    obtain ⟨-, rfl⟩ := h
    exact h'.2.symm

theorem exec_of_latched (he : s.xfc.err ≠ .none) (hi : executesLatched i = false) : exec i s = .next s := by
  obtain ⟨u, hu⟩ := exec_total i s
  rcases exec_cases hu with ⟨-, -, rfl⟩ | ⟨hclear, -⟩ | ⟨hx, -⟩
  · exact hu
  · exact absurd hclear he
  · simp [executes, he, hi] at hx

theorem exec_of_failedCheck {c : Err} (he : s.xfc.err = .none) (hc : failedCheck i s.xfc = some c) :
    exec i s = .next { s with xfc := { s.xfc with err := c } } := by
  obtain ⟨u, hu⟩ := exec_total i s
  rcases exec_cases hu with ⟨hl, -⟩ | ⟨-, c', hc', rfl⟩ | ⟨hx, -⟩
  · exact absurd he hl
  · obtain rfl : c = c' := Option.some.inj (hc.symm.trans hc')
    exact hu
  · simp [executes, he, hc] at hx

theorem exec_of_effect (hx : executes i s.xfc = true) (h : Effect i s t) : exec i s = .next t := by
  obtain ⟨u, hu⟩ := exec_total i s
  rcases exec_cases hu with ⟨he, hi, -⟩ | ⟨he, c, hc, -⟩ | ⟨-, h'⟩
  · simp [executes, he, hi] at hx
  · simp [executes, he, hc] at hx
  · rwa [effect_unique h h']

end

/-! ## RXBYTE by its branches, and the payload counter -/

theorem rxIdle_header {b : Byte} {k : BlockKind} (h : headerKind b = some k) (s : State) :
    rxIdle b s = s.update fun x => { openFrame k x with rxres := .none, fsm := .rxseq } := by
  rw [rxIdle, h]

theorem rxIdle_noHeader {b : Byte} (h : headerKind b = none) (s : State) :
    rxIdle b s = s.update fun x => { x with rxres := .nohdr } := by
  rw [rxIdle, h]

theorem rxTrailer1_checksum {s : State} (b : Byte) (h : s.xfc.mode = .checksum) :
    rxTrailer1 b s = verdict (b == s.xfc.sum) s := by
  rw [rxTrailer1, h]

theorem rxTrailer1_crc16 {s : State} (b : Byte) (h : s.xfc.mode = .crc16) :
    rxTrailer1 b s = s.update fun x => { x with rth := b, fsm := .rxtrl2 } := by
  rw [rxTrailer1, h]

theorem payloadDone_iff {x : Xfc} : payloadDone x = true ↔ x.cnt.toNat = size x.blk := decide_eq_true_iff

/-- CNT does not wrap on the way to size(BLK) (R193(e)). -/
theorem toNat_cnt_add {x : Xfc} {n : Nat} (h : x.cnt.toNat + n ≤ size x.blk) :
    (x.cnt + BitVec.ofNat 11 n).toNat = x.cnt.toNat + n := by
  have hsize := size_le x.blk
  rw [BitVec.toNat_add, BitVec.toNat_ofNat]
  omega

end Sys2Proof.Machine
end

section
/-! PROOF. The family 10_state.md, the invariant (R39): its clauses read by framer state, and every command keeps
them. -/

namespace Sys2Proof.Machine

/-! ## The invariant by framer state -/

/-- R39(k) in a transmit frame: the tx stream ends with the frame's header and the payload so far. -/
def TxAccumulated (s : State) : Prop :=
  ∃ before p : List Byte, s.tx = before ++ [hdr s.xfc.blk, s.xfc.seq, complement s.xfc.seq] ++ p ∧
    p.length = s.xfc.cnt.toNat ∧ s.xfc.sum = checksum p ∧ s.xfc.crc = crc16 p

/-- R39(k) in a receive frame: BUF holds the payload so far. -/
def RxAccumulated (x : Xfc) : Prop :=
  x.sum = checksum (x.buf.readFirst x.cnt.toNat) ∧ x.crc = crc16 (x.buf.readFirst x.cnt.toNat)

/-- What R39 says in one framer state. -/
def FrameRule (s : State) : Fsm → Prop
  | .idle => s.xfc.cnt = 0#11 ∨ s.xfc.cnt.toNat = size s.xfc.blk
  | .txpayload => s.xfc.modev = true ∧ s.xfc.cnt.toNat < size s.xfc.blk ∧ TxAccumulated s
  | .rxseq | .rxcmpl => s.xfc.modev = true ∧ s.xfc.cnt = 0#11 ∧ RxAccumulated s.xfc
  | .rxpayload => s.xfc.modev = true ∧ s.xfc.cnt.toNat < size s.xfc.blk ∧ RxAccumulated s.xfc
  | .rxtrl1 => s.xfc.modev = true ∧ s.xfc.cnt.toNat = size s.xfc.blk ∧ RxAccumulated s.xfc
  | .rxtrl2 =>
    s.xfc.modev = true ∧ s.xfc.cnt.toNat = size s.xfc.blk ∧ RxAccumulated s.xfc ∧ s.xfc.mode = .crc16

theorem FrameRule.cnt_le {s : State} {f : Fsm} (h : FrameRule s f) : s.xfc.cnt.toNat ≤ 1024 := by
  have hsize := size_le s.xfc.blk
  cases f with
  | idle => exact Or.elim h (fun h => by simp [h]) fun h => h.le.trans hsize
  | rxseq | rxcmpl =>
    obtain ⟨-, hcnt, -⟩ := h
    simp [hcnt]
  | txpayload | rxpayload | rxtrl1 | rxtrl2 =>
    obtain ⟨-, hcnt, -⟩ := h
    exact hcnt.le.trans hsize

theorem FrameRule.modev {s : State} {f : Fsm} (h : FrameRule s f) (hf : f ≠ .idle) : s.xfc.modev = true := by
  cases f with
  | idle => exact absurd rfl hf
  | _ => exact h.1

theorem FrameRule.rxAccumulated {s : State} {f : Fsm} (h : FrameRule s f) (hf : f.receiving = true) :
    RxAccumulated s.xfc := by
  cases f with
  | idle | txpayload => cases hf
  | rxtrl2 =>
    obtain ⟨-, -, hacc, -⟩ := h
    exact hacc
  | rxseq | rxcmpl | rxpayload | rxtrl1 =>
    obtain ⟨-, -, hacc⟩ := h
    exact hacc

/-- The clauses of R39 are those of the framer state the machine is in, and two that hold in every framer state. -/
theorem inv_iff {s : State} : Inv s ↔
    FrameRule s s.xfc.fsm ∧ (s.xfc.modev = false → s.xfc.mode = .checksum) ∧ s.xfc.buf.wf = true := by
  constructor
  · intro h
    refine ⟨?_, h.noModeIsChecksum, h.bufCanonical⟩
    have hmode := h.openHasMode
    have hrx := h.rxAccumulated
    cases hf : s.xfc.fsm <;> rw [hf] at hmode hrx
    case idle => exact h.idleCount hf
    case txpayload => exact ⟨hmode (by decide), h.txCount hf, h.txAccumulated hf⟩
    case rxseq => exact ⟨hmode (by decide), h.rxHeadCount (.inl hf), hrx rfl⟩
    case rxcmpl => exact ⟨hmode (by decide), h.rxHeadCount (.inr hf), hrx rfl⟩
    case rxpayload => exact ⟨hmode (by decide), h.rxPayloadCount hf, hrx rfl⟩
    case rxtrl1 => exact ⟨hmode (by decide), h.rxTrailerCount (.inl hf), hrx rfl⟩
    case rxtrl2 => exact ⟨hmode (by decide), h.rxTrailerCount (.inr hf), hrx rfl, h.rxTrailer2Mode hf⟩
  · rintro ⟨hframe, hmode, hbuf⟩
    have rule {f : Fsm} (hf : s.xfc.fsm = f) : FrameRule s f := hf ▸ hframe
    exact
      { cntBound := hframe.cnt_le
        openHasMode := hframe.modev
        txCount := fun hf => (rule hf).2.1
        rxHeadCount := fun h => h.elim (fun hf => (rule hf).2.1) fun hf => (rule hf).2.1
        rxPayloadCount := fun hf => (rule hf).2.1
        rxTrailerCount := fun h => h.elim (fun hf => (rule hf).2.1) fun hf => (rule hf).2.1
        rxTrailer2Mode := fun hf => (rule hf).2.2.2
        idleCount := rule
        noModeIsChecksum := hmode
        txAccumulated := fun hf => (rule hf).2.2
        rxAccumulated := hframe.rxAccumulated
        bufCanonical := hbuf }

theorem Inv.rule {s : State} {f : Fsm} (h : Inv s) (hf : s.xfc.fsm = f) : FrameRule s f :=
  hf ▸ (inv_iff.mp h).1

/-- A state in a framer state whose rule it meets; the mode and BUF as R39 asks in every framer state. -/
theorem Inv.of_rule {s : State} {f : Fsm} (hf : s.xfc.fsm = f) (hrule : FrameRule s f)
    (hmode : s.xfc.modev = false → s.xfc.mode = .checksum) (hbuf : s.xfc.buf.wf = true) : Inv s :=
  inv_iff.mpr ⟨hf ▸ hrule, hmode, hbuf⟩

/-- The invariant does not read ERR. -/
theorem Inv.set_err {s : State} (h : Inv s) (c : Err) : Inv { s with xfc := { s.xfc with err := c } } := { h with }

/-- Nor what is still offered. -/
theorem Inv.set_input {s : State} (h : Inv s) (rest : List HostEvent) : Inv { s with input := rest } := { h with }

/-- The reset values, with any canonical BUF, meet the invariant whatever has been emitted (R37). -/
theorem inv_freshSession (s : State) {m : Memory} (hm : m.wf = true) : Inv { s with xfc := freshSession m } :=
  .of_rule (f := .idle) rfl (.inl rfl) (fun _ => rfl) hm

/-! ## Accumulating a payload byte -/

theorem txAccumulated_txPut {s : State} (b : Byte) (hlt : s.xfc.cnt.toNat < size s.xfc.blk) (h : TxAccumulated s) :
    TxAccumulated (txPut b s) := by
  obtain ⟨before, p, htx, hlen, hsum, hcrc⟩ := h
  refine ⟨before, p ++ [b], ?_, ?_, ?_, ?_⟩
  · simp [txPut_eq, htx]
  · simp only [txPut_eq, countByte_cnt, List.length_append, hlen]
    exact (toNat_cnt_add hlt).symm
  · simp [txPut_eq, hsum, checksum_append]
  · simp [txPut_eq, hcrc, crc16_append]

/-- A byte stored at CNT, accumulated and counted: R39(k) for one byte more. -/
theorem rxAccumulated_rxPayload {s : State} (b : Byte) (hlt : s.xfc.cnt.toNat < size s.xfc.blk)
    (h : RxAccumulated s.xfc) : RxAccumulated (rxPayload b s).xfc := by
  obtain ⟨hsum, hcrc⟩ := h
  have haddr : bufAddress s.xfc.cnt = s.xfc.cnt.toNat := bufAddress_of_lt (hlt.trans_le (size_le _))
  have hcnt : (s.xfc.cnt + 1#11).toNat = s.xfc.cnt.toNat + 1 := toNat_cnt_add hlt
  simp only [RxAccumulated, rxPayload_eq, countByte_sum, countByte_crc, countByte_cnt, hcnt, haddr,
    readFirst_write, checksum_append, crc16_append, ← hsum, ← hcrc, and_self]

/-! ## Every command keeps the invariant -/

section
variable {s t : State} {b : Byte}

theorem inv_verdict (ok : Bool) (h : Inv s) (hcnt : s.xfc.cnt.toNat = size s.xfc.blk) : Inv (verdict ok s) :=
  .of_rule rfl (.inr hcnt) h.noModeIsChecksum h.bufCanonical

theorem inv_rxIdle (h : Inv s) (hm : s.xfc.modev = true) : Inv (rxIdle b s) := by
  cases hb : headerKind b with
  | none =>
    rw [rxIdle_noHeader hb]
    exact { h with }
  | some k =>
    rw [rxIdle_header hb]
    exact .of_rule (f := .rxseq) rfl ⟨hm, rfl, rfl, rfl⟩ h.noModeIsChecksum h.bufCanonical

theorem inv_rxPayload (h : Inv s) (hf : s.xfc.fsm = .rxpayload) : Inv (rxPayload b s) := by
  obtain ⟨hm, hlt, hacc⟩ := h.rule hf
  have hacc' := rxAccumulated_rxPayload b hlt hacc
  have hbuf := wf_storeAtCount b s.xfc h.bufCanonical
  have hcnt : (s.xfc.cnt + 1#11).toNat = s.xfc.cnt.toNat + 1 := toNat_cnt_add hlt
  rw [rxPayload_eq] at hacc' ⊢
  by_cases hd : (s.xfc.cnt + 1#11).toNat = size s.xfc.blk
  · exact .of_rule (f := .rxtrl1) (if_pos hd) ⟨hm, hd, hacc'⟩ h.noModeIsChecksum hbuf
  · have hlt' : (s.xfc.cnt + 1#11).toNat < size s.xfc.blk := by omega
    exact .of_rule (f := .rxpayload) ((if_neg hd).trans hf) ⟨hm, hlt', hacc'⟩ h.noModeIsChecksum hbuf

theorem inv_rxTrailer1 (h : Inv s) (hf : s.xfc.fsm = .rxtrl1) : Inv (rxTrailer1 b s) := by
  obtain ⟨hm, hcnt, hacc⟩ := h.rule hf
  cases hmode : s.xfc.mode with
  | checksum =>
    rw [rxTrailer1_checksum b hmode]
    exact inv_verdict _ h hcnt
  | crc16 =>
    rw [rxTrailer1_crc16 b hmode]
    exact .of_rule (f := .rxtrl2) rfl ⟨hm, hcnt, hacc, hmode⟩ h.noModeIsChecksum h.bufCanonical

theorem inv_txdata (h : Inv s) (hf : s.xfc.fsm = .txpayload) :
    Inv (if payloadDone (txPut b s).xfc then txClose (txPut b s) else txPut b s) := by
  obtain ⟨hm, hlt, hacc⟩ := h.rule hf
  have hacc' := txAccumulated_txPut b hlt hacc
  have hcnt : (txPut b s).xfc.cnt.toNat = s.xfc.cnt.toNat + 1 := toNat_cnt_add hlt
  split
  · next hd => exact .of_rule (f := .idle) rfl (.inr (payloadDone_iff.mp hd)) h.noModeIsChecksum h.bufCanonical
  · next hd =>
    have hne := mt payloadDone_iff.mpr hd
    have hle : (txPut b s).xfc.cnt.toNat ≤ size (txPut b s).xfc.blk := hcnt.trans_le hlt
    exact .of_rule (f := .txpayload) hf ⟨hm, lt_of_le_of_ne hle hne, hacc'⟩ h.noModeIsChecksum h.bufCanonical

/-- TXPAD fills the payload up, so that CNT ends at size(BLK) (R145). -/
theorem inv_txpad (h : Inv s) (hf : s.xfc.fsm = .txpayload) :
    Inv (txClose (txPutMany (size s.xfc.blk - s.xfc.cnt.toNat) b s)) := by
  obtain ⟨-, hlt, -⟩ := h.rule hf
  have hfill : s.xfc.cnt.toNat + (size s.xfc.blk - s.xfc.cnt.toNat) = size s.xfc.blk := Nat.add_sub_of_le hlt.le
  rw [txPutMany_eq]
  exact .of_rule (f := .idle) rfl (.inr ((toNat_cnt_add hfill.le).trans hfill)) h.noModeIsChecksum h.bufCanonical

theorem inv_rxbyte (h : Inv s) (he : Effect (.rxbyte b) s t) : Inv t := by
  rcases he with ⟨-, hm, rfl⟩ | ⟨hf, rfl⟩ | ⟨hf, rfl⟩ | ⟨hf, rfl⟩ | ⟨hf, rfl⟩ | ⟨hf, rfl⟩
  · exact inv_rxIdle h hm
  · exact .of_rule (f := .rxcmpl) rfl (h.rule hf) h.noModeIsChecksum h.bufCanonical
  · obtain ⟨hm, hcnt, hacc⟩ := h.rule hf
    have hlt : s.xfc.cnt.toNat < size s.xfc.blk := by simpa [hcnt] using size_pos s.xfc.blk
    exact .of_rule (f := .rxpayload) rfl ⟨hm, hlt, hacc⟩ h.noModeIsChecksum h.bufCanonical
  · exact inv_rxPayload h hf
  · exact inv_rxTrailer1 h hf
  · obtain ⟨-, hcnt, -⟩ := h.rule hf
    exact inv_verdict _ h hcnt

/-- A command that executes keeps the invariant. -/
theorem inv_effect {i : Instr} (h : Inv s) (he : Effect i s t) : Inv t := by
  cases i with
  | nop => subst he; exact h
  | init => subst he; exact inv_freshSession s h.bufCanonical
  | errclr => subst he; exact h.set_err .none
  | abort => subst he; exact .of_rule (f := .idle) rfl (.inl rfl) h.noModeIsChecksum h.bufCanonical
  | rd r => subst he; exact { h with }
  | sumclr | sumbyte | crcclr | crcbyte | setseq | seqnext | setpad =>
    obtain ⟨hf, rfl⟩ := he
    exact .of_rule hf (h.idleCount hf) h.noModeIsChecksum h.bufCanonical
  | setmode m =>
    obtain ⟨hf, -, rfl⟩ := he
    exact .of_rule hf (h.idleCount hf) (fun hm => nomatch hm) h.bufCanonical
  | txbegin k =>
    obtain ⟨-, hm, rfl⟩ := he
    exact .of_rule (f := .txpayload) rfl
      ⟨hm, size_pos k, s.tx, [], (List.append_nil _).symm, rfl, rfl, rfl⟩ h.noModeIsChecksum h.bufCanonical
  | txdata b => obtain ⟨hf, rfl⟩ := he; exact inv_txdata h hf
  | txpad => obtain ⟨hf, rfl⟩ := he; exact inv_txpad h hf
  | rxbyte b => exact inv_rxbyte h he

theorem inv_exec {i : Instr} (h : Inv s) (he : exec i s = .next t) : Inv t := by
  rcases exec_cases he with ⟨-, -, rfl⟩ | ⟨-, c, -, rfl⟩ | ⟨-, heff⟩
  · exact h
  · exact h.set_err c
  · exact inv_effect h heff

theorem inv_illegalWord (h : Inv s) (he : illegalWord s = .next t) : Inv t := by
  rcases unlessLatched_next he with ⟨-, rfl⟩ | ⟨-, hr⟩
  · exact h
  · cases hr
    exact h.set_err .illegal

end

/-- Settles O56: each way a step can go keeps the invariant. -/
theorem everyStepKeepsTheInvariant : Obligations.EveryStepKeepsTheInvariant := by
  unfold Obligations.EveryStepKeepsTheInvariant
  intro s t h hstep
  rcases step_cases hstep with ⟨-, rfl⟩ | ⟨rest, -, rfl⟩ | ⟨w, rest, i, -, -, he⟩ | ⟨w, rest, e, -, -, he⟩
  · exact h
  · exact inv_freshSession { s with input := rest, resets := s.resets + 1 } (wf_ofFun _)
  · exact inv_exec (h.set_input rest) he
  · exact inv_illegalWord (h.set_input rest) he

/-! ## Reset and reachable states -/

/-- Settles O55: the state after reset is a fresh session over an empty, so canonical, BUF. -/
theorem invariantHoldsAtReset : Obligations.InvariantHoldsAtReset := by
  unfold Obligations.InvariantHoldsAtReset
  exact inv_freshSession State.reset wf_reset

/-- Whatever holds at reset and is kept by every step holds of every reachable state; here, the invariant. -/
theorem inv_of_reachable {s : State} (h : Reachable s) : Inv s := by
  induction h with
  | start events => exact invariantHoldsAtReset.set_input events
  | step _ hstep ih => exact everyStepKeepsTheInvariant _ _ ih hstep

theorem Fsm.code_le (f : Fsm) : f.code.toNat ≤ 6 := by cases f <;> decide

theorem Err.code_le (e : Err) : e.code.toNat ≤ 5 := by cases e <;> decide

theorem RxRes.code_le (r : RxRes) : r.code.toNat ≤ 5 := by cases r <;> decide

/-- Settles O57: the invariant by induction on the run, the code bounds by the tables of codes. -/
theorem reachableStatesHaveTheInvariant : Obligations.ReachableStatesHaveTheInvariant := by
  unfold Obligations.ReachableStatesHaveTheInvariant
  exact fun s hs => ⟨inv_of_reachable hs, s.xfc.fsm.code_le, s.xfc.err.code_le, s.xfc.rxres.code_le⟩

end Sys2Proof.Machine
end

section
/-! PROOF. The family 10_state.md, what BUF held (R38): two states that differ in hidden bytes of BUF step together. -/

namespace Sys2Proof.Machine

/-! ## Another BUF -/

/-- The same state with another BUF. -/
def State.setBuf (s : State) (m : Memory) : State := { s with xfc := { s.xfc with buf := m } }

/-- BUF and m agree on the payload an open receive frame has taken so far. -/
def AgreeOnPayload (s : State) (m : Memory) : Prop :=
  s.xfc.fsm.receiving = true → ∀ a, a < s.xfc.cnt.toNat → s.xfc.buf.read a = m.read a

theorem differOnlyInHiddenBuf_iff {s s' : State} :
    DifferOnlyInHiddenBuf s s' ↔ ∃ m, s' = s.setBuf m ∧ AgreeOnPayload s m := by
  constructor
  · rintro ⟨hs, ha⟩
    exact ⟨s'.xfc.buf, hs, ha⟩
  · rintro ⟨m, rfl, ha⟩
    exact ⟨rfl, ha⟩

theorem setBuf_self (s : State) : s.setBuf s.xfc.buf = s := rfl

theorem agreeOnPayload_self (s : State) : AgreeOnPayload s s.xfc.buf := fun _ _ _ => rfl

theorem agreeOnPayload_of_not_receiving {s : State} (m : Memory) (h : s.xfc.fsm.receiving = false) :
    AgreeOnPayload s m := fun hr => absurd hr (by simp [h])

/-- The precondition table does not read BUF. -/
theorem failedCheck_setBuf (i : Instr) (s : State) (m : Memory) :
    failedCheck i (s.setBuf m).xfc = failedCheck i s.xfc := by
  cases i <;> rfl

theorem executes_setBuf (i : Instr) (s : State) (m : Memory) :
    executes i (s.setBuf m).xfc = executes i s.xfc := by
  rw [executes, failedCheck_setBuf]; rfl

theorem txPutMany_setBuf (n : Nat) (b : Byte) (s : State) (m : Memory) :
    txPutMany n b (s.setBuf m) = (txPutMany n b s).setBuf m := by
  rw [txPutMany_eq, txPutMany_eq]; rfl

section
variable {s t : State} {m : Memory} {b : Byte}

/-- A verdict reads from BUF only the payload, which is complete: all its bytes agree. -/
theorem verdict_setBuf (ok : Bool) (hcnt : s.xfc.cnt.toNat = size s.xfc.blk) (hr : s.xfc.fsm.receiving = true)
    (ha : AgreeOnPayload s m) : verdict ok (s.setBuf m) = (verdict ok s).setBuf m := by
  have hpay : m.readFirst (size s.xfc.blk) = s.xfc.buf.readFirst (size s.xfc.blk) :=
    readFirst_congr _ _ _ fun a hlt => (ha hr a (hcnt ▸ hlt)).symm
  rw [verdict_eq, verdict_eq]
  simp only [State.setBuf, hpay]
  rfl

/-- The byte RXBYTE stores is the same in both, so the payload still agrees. -/
theorem agreeOnPayload_rxPayload (hf : s.xfc.fsm = .rxpayload) (hlt : s.xfc.cnt.toNat < size s.xfc.blk)
    (ha : AgreeOnPayload s m) : AgreeOnPayload (rxPayload b s) (m.write (bufAddress s.xfc.cnt) b) := by
  have hcnt : (s.xfc.cnt + 1#11).toNat = s.xfc.cnt.toNat + 1 := toNat_cnt_add hlt
  intro _ a hlt'
  rw [rxPayload_eq] at hlt' ⊢
  rw [bufAddress_of_lt (hlt.trans_le (size_le _))]
  by_cases hac : a = s.xfc.cnt.toNat
  · subst hac
    simp
  · have hold : a < s.xfc.cnt.toNat := by
      have : a < (s.xfc.cnt + 1#11).toNat := hlt'
      omega
    simp only [read_write_other _ b hac]
    exact ha (by rw [hf]; rfl) a hold

theorem rxIdle_setBuf (ha : AgreeOnPayload s m) :
    rxIdle b (s.setBuf m) = (rxIdle b s).setBuf m ∧ AgreeOnPayload (rxIdle b s) m := by
  cases hb : headerKind b with
  | none =>
    rw [rxIdle_noHeader hb, rxIdle_noHeader hb]
    exact ⟨rfl, ha⟩
  | some k =>
    rw [rxIdle_header hb, rxIdle_header hb]
    exact ⟨rfl, fun _ a hlt => absurd hlt (Nat.not_lt_zero a)⟩

theorem rxTrailer1_setBuf (h : Inv s) (hf : s.xfc.fsm = .rxtrl1) (ha : AgreeOnPayload s m) :
    rxTrailer1 b (s.setBuf m) = (rxTrailer1 b s).setBuf m ∧ AgreeOnPayload (rxTrailer1 b s) m := by
  have hr : s.xfc.fsm.receiving = true := by rw [hf]; rfl
  obtain ⟨-, hcnt, -⟩ := h.rule hf
  cases hm : s.xfc.mode with
  | checksum =>
    rw [rxTrailer1_checksum b hm, rxTrailer1_checksum b (s := s.setBuf m) hm]
    exact ⟨verdict_setBuf _ hcnt hr ha, agreeOnPayload_of_not_receiving m rfl⟩
  | crc16 =>
    rw [rxTrailer1_crc16 b hm, rxTrailer1_crc16 b (s := s.setBuf m) hm]
    exact ⟨rfl, fun _ => ha hr⟩

/-- RXBYTE in both states: only a payload byte makes a new pair of BUFs. -/
theorem rxbyte_setBuf (h : Inv s) (ha : AgreeOnPayload s m) (he : Effect (.rxbyte b) s t) :
    ∃ m', Effect (.rxbyte b) (s.setBuf m) (t.setBuf m') ∧ AgreeOnPayload t m' := by
  rcases he with ⟨hf, hm, rfl⟩ | ⟨hf, rfl⟩ | ⟨hf, rfl⟩ | ⟨hf, rfl⟩ | ⟨hf, rfl⟩ | ⟨hf, rfl⟩
  · obtain ⟨heq, ha'⟩ := rxIdle_setBuf ha
    exact ⟨m, .inl ⟨hf, hm, heq.symm⟩, ha'⟩
  · exact ⟨m, .inr (.inl ⟨hf, rfl⟩), fun _ => ha (by rw [hf]; rfl)⟩
  · exact ⟨m, .inr (.inr (.inl ⟨hf, rfl⟩)), fun _ => ha (by rw [hf]; rfl)⟩
  · obtain ⟨-, hlt, -⟩ := h.rule hf
    refine ⟨m.write (bufAddress s.xfc.cnt) b, .inr (.inr (.inr (.inl ⟨hf, ?_⟩))), agreeOnPayload_rxPayload hf hlt ha⟩
    rw [rxPayload_eq, rxPayload_eq]
    rfl
  · obtain ⟨heq, ha'⟩ := rxTrailer1_setBuf h hf ha
    exact ⟨m, .inr (.inr (.inr (.inr (.inl ⟨hf, heq.symm⟩)))), ha'⟩
  · obtain ⟨-, hcnt, -⟩ := h.rule hf
    have heq := verdict_setBuf (joinBytes s.xfc.rth b == s.xfc.crc) hcnt (by rw [hf]; rfl) ha
    exact ⟨m, .inr (.inr (.inr (.inr (.inr ⟨hf, heq.symm⟩)))), agreeOnPayload_of_not_receiving m rfl⟩

/-- The effect of a command, in both states. -/
theorem effect_setBuf {i : Instr} (h : Inv s) (ha : AgreeOnPayload s m) (he : Effect i s t) :
    ∃ m', Effect i (s.setBuf m) (t.setBuf m') ∧ AgreeOnPayload t m' := by
  cases i with
  | nop | errclr | rd => subst he; exact ⟨m, rfl, ha⟩
  | init | abort => subst he; exact ⟨m, rfl, agreeOnPayload_of_not_receiving m rfl⟩
  | sumclr | sumbyte | crcclr | crcbyte | setseq | seqnext | setpad =>
    obtain ⟨hf, rfl⟩ := he
    exact ⟨m, ⟨hf, rfl⟩, ha⟩
  | setmode =>
    obtain ⟨hf, hm, rfl⟩ := he
    exact ⟨m, ⟨hf, hm, rfl⟩, ha⟩
  | txbegin =>
    obtain ⟨hf, hm, rfl⟩ := he
    exact ⟨m, ⟨hf, hm, rfl⟩, agreeOnPayload_of_not_receiving m rfl⟩
  | txdata b =>
    obtain ⟨hf, rfl⟩ := he
    refine ⟨m, ⟨hf, (apply_ite (State.setBuf · m) _ _ _).trans rfl⟩, agreeOnPayload_of_not_receiving m ?_⟩
    split
    · rfl
    · exact congrArg Fsm.receiving hf
  | txpad =>
    obtain ⟨hf, rfl⟩ := he
    exact ⟨m, ⟨hf, congrArg txClose (txPutMany_setBuf _ _ s m).symm⟩, agreeOnPayload_of_not_receiving m rfl⟩
  | rxbyte b => exact rxbyte_setBuf h ha he

/-- A command does the same in both states, whether it is ignored, rejected or executed. -/
theorem exec_setBuf {i : Instr} (h : Inv s) (ha : AgreeOnPayload s m) (he : exec i s = .next t) :
    ∃ m', exec i (s.setBuf m) = .next (t.setBuf m') ∧ AgreeOnPayload t m' := by
  rcases exec_cases he with ⟨hl, hi, rfl⟩ | ⟨hclear, c, hc, rfl⟩ | ⟨hx, heff⟩
  · exact ⟨m, exec_of_latched hl hi, ha⟩
  · exact ⟨m, exec_of_failedCheck (s := s.setBuf m) hclear ((failedCheck_setBuf i s m).trans hc), ha⟩
  · obtain ⟨m', heff', ha'⟩ := effect_setBuf h ha heff
    exact ⟨m', exec_of_effect ((executes_setBuf i s m).trans hx) heff', ha'⟩

theorem illegalWord_setBuf (ha : AgreeOnPayload s m) (he : illegalWord s = .next t) :
    illegalWord (s.setBuf m) = .next (t.setBuf m) ∧ AgreeOnPayload t m := by
  rcases unlessLatched_next he with ⟨hl, rfl⟩ | ⟨hclear, hr⟩
  · exact ⟨illegalWord_latched hl, ha⟩
  · cases hr
    exact ⟨illegalWord_clear (s := s.setBuf m) hclear, ha⟩

/-- A step in both states; after rst both hold the same free bytes. -/
theorem step_setBuf (h : Inv s) (ha : AgreeOnPayload s m) (hstep : step s = .next t) :
    ∃ m', step (s.setBuf m) = .next (t.setBuf m') ∧ AgreeOnPayload t m' := by
  rcases step_cases hstep with ⟨hin, rfl⟩ | ⟨rest, hin, rfl⟩ | ⟨w, rest, i, hin, hw, he⟩ | ⟨w, rest, e, hin, hw, he⟩
  · exact ⟨m, step_nothing hin, ha⟩
  · exact ⟨_, (step_rst (s := s.setBuf m) hin).trans (congrArg _ (setBuf_self _).symm), agreeOnPayload_self _⟩
  · obtain ⟨m', he', ha'⟩ := exec_setBuf (h.set_input rest) ha he
    exact ⟨m', (step_command_ok (s := s.setBuf m) hin hw).trans he', ha'⟩
  · obtain ⟨he', ha'⟩ := illegalWord_setBuf (s := { s with input := rest }) ha he
    exact ⟨m, (step_command_error (s := s.setBuf m) hin hw).trans he', ha'⟩

theorem run_setBuf {n : Nat} (h : Inv s) (ha : AgreeOnPayload s m)
    (hrun : Host.Core.run Sys2Proof.core n s = .next t) :
    ∃ m', Host.Core.run Sys2Proof.core n (s.setBuf m) = .next (t.setBuf m') ∧ AgreeOnPayload t m' := by
  induction n generalizing s m with
  | zero =>
    cases hrun
    exact ⟨m, rfl, ha⟩
  | succ n ih =>
    obtain ⟨u, hu⟩ := step_total s
    obtain ⟨m₁, hu', ha₁⟩ := step_setBuf h ha hu
    rw [run_succ n hu] at hrun
    rw [run_succ n hu']
    exact ih (everyStepKeepsTheInvariant s u h hu) ha₁ hrun

end

/-- Settles O59: equal streams are part of DifferOnlyInHiddenBuf, and runs keep it. -/
theorem unwrittenBufIsUnobservable : Obligations.UnwrittenBufIsUnobservable := by
  unfold Obligations.UnwrittenBufIsUnobservable
  refine ⟨fun n s s' t h hd hrun => ?_, fun s t h => ?_⟩
  · obtain ⟨m, rfl, ha⟩ := differOnlyInHiddenBuf_iff.mp hd
    obtain ⟨m', hrun', ha'⟩ := run_setBuf h ha hrun
    exact ⟨t.setBuf m', hrun', differOnlyInHiddenBuf_iff.mpr ⟨m', rfl, ha'⟩, rfl, rfl, rfl⟩
  · cases h
    rfl

end Sys2Proof.Machine
end

section
/-! PROOF. The family 10_state.md, the write map (R43), the reset values (R37) and the status codes (R28, R41). -/

namespace Sys2Proof.Machine

/-! ## The write map -/

theorem sameItem_refl (item : Item) (x : Xfc) : SameItem item x x := by
  cases item <;> simp [SameItem]

theorem sameItem_set_err {item : Item} (x : Xfc) (c : Err) (h : item ≠ .err) :
    SameItem item x { x with err := c } := by
  cases item <;> simp_all [SameItem]

/-- A failing check is what the map lists as a writer of ERR. -/
theorem mayWrite_err_of_failedCheck {i : Instr} {x : Xfc} {c : Err} (he : x.err = .none)
    (hc : failedCheck i x = some c) : mayWrite .err i x = true := by
  cases i with
  | nop | init | errclr | rd | abort => cases hc
  | _ => simp [mayWrite, mayWrite.mayReject, he, hc]

section
variable {item : Item} {s t : State} {b : Byte}

/-- A verdict writes RXRES and FSM. -/
theorem sameItem_verdict (ok : Bool) (s : State) (hres : item ≠ .rxres) (hfsm : item ≠ .fsm) :
    SameItem item s.xfc (verdict ok s).xfc := by
  rw [verdict_eq]
  cases item <;> simp_all [SameItem]

/-- What RXBYTE writes in each framer state is in its row of the map. -/
theorem sameItem_rxbyte (he : Effect (.rxbyte b) s t) (hw : mayWrite item (.rxbyte b) s.xfc = false) :
    SameItem item s.xfc t.xfc := by
  rcases he with ⟨hf, -, rfl⟩ | ⟨hf, rfl⟩ | ⟨hf, rfl⟩ | ⟨hf, rfl⟩ | ⟨hf, rfl⟩ | ⟨hf, rfl⟩
  · cases hb : headerKind b with
    | none =>
      rw [rxIdle_noHeader hb]
      cases item <;> simp_all [mayWrite, SameItem]
    | some k =>
      obtain rfl := headerKind_eq_some.mp hb
      have hhdr : isRxHeader (hdr k) s.xfc = true := by cases k <;> simp [isRxHeader, hf, hdr, Config.soh, Config.stx]
      rw [rxIdle_header hb]
      cases item <;> simp_all [mayWrite, SameItem]
  · cases item <;> simp_all [mayWrite, SameItem, rxSequence]
  · cases item <;> simp_all [mayWrite, SameItem, rxComplement]
  · rw [rxPayload_eq]
    cases item <;> simp_all [mayWrite, SameItem]
  · cases hm : s.xfc.mode with
    | checksum =>
      rw [rxTrailer1_checksum b hm]
      apply sameItem_verdict <;> rintro rfl <;> simp [mayWrite, endsRxFrame, hf, hm] at hw
    | crc16 =>
      rw [rxTrailer1_crc16 b hm]
      cases item <;> simp_all [mayWrite, SameItem]
  · apply sameItem_verdict <;> rintro rfl <;> simp [mayWrite, endsRxFrame, hf] at hw

/-- A command that executes leaves every item alone that its row of the map does not name. -/
theorem sameItem_effect {i : Instr} (he : Effect i s t) (hw : mayWrite item i s.xfc = false) :
    SameItem item s.xfc t.xfc := by
  cases i with
  | nop | rd =>
    subst he
    exact sameItem_refl item _
  | init =>
    subst he
    obtain rfl : item = .buf := by simpa [mayWrite] using hw
    rfl
  | errclr =>
    subst he
    exact sameItem_set_err _ _ (by simpa [mayWrite] using hw)
  | abort =>
    subst he
    cases item <;> simp_all [mayWrite, SameItem]
  | sumclr | sumbyte | crcclr | crcbyte | setseq | seqnext | setpad =>
    obtain ⟨-, rfl⟩ := he
    cases item <;> simp_all [mayWrite, SameItem]
  | setmode | txbegin =>
    obtain ⟨-, -, rfl⟩ := he
    cases item <;> simp_all [mayWrite, SameItem]
  | txdata =>
    obtain ⟨-, rfl⟩ := he
    split <;> cases item <;> simp_all [mayWrite, SameItem, txClose_eq, txPut_eq]
  | txpad =>
    obtain ⟨-, rfl⟩ := he
    rw [txPutMany_eq, txClose_eq]
    cases item <;> simp_all [mayWrite, SameItem]
  | rxbyte b => exact sameItem_rxbyte he hw

end

/-- Settles O51: an ignored command writes nothing, a rejected one ERR, which the map lists, and one that executes has
the effect of its row. -/
theorem writeMapListsEveryWriter : Obligations.WriteMapListsEveryWriter := by
  unfold Obligations.WriteMapListsEveryWriter
  intro item i s t h hw
  rcases exec_cases h with ⟨-, -, rfl⟩ | ⟨he, c, hc, rfl⟩ | ⟨-, heff⟩
  · exact sameItem_refl item _
  · refine sameItem_set_err _ _ ?_
    rintro rfl
    simp [mayWrite_err_of_failedCheck he hc] at hw
  · exact sameItem_effect heff hw

/-! ## Reset values and codes -/

theorem atResetValues_freshSession (m : Memory) : (freshSession m).AtResetValues :=
  ⟨rfl, rfl, rfl, rfl, rfl, rfl, rfl, rfl, rfl, rfl, rfl, rfl, rfl, rfl⟩

/-- Settles O9: both resets leave the items of a fresh session, over their own BUF. -/
theorem resetAndInitSetTheTableOfResetValues : Obligations.ResetAndInitSetTheTableOfResetValues := by
  unfold Obligations.ResetAndInitSetTheTableOfResetValues
  refine ⟨fun s rest h => ⟨_, step_rst h, ?_, rfl, rfl, rfl, rfl⟩,
    fun s => ⟨_, rfl, atResetValues_freshSession _, rfl, rfl, rfl, rfl, rfl⟩⟩
  exact atResetValues_freshSession _

theorem busyOut_iff (s : State) : s.busyOut = true ↔ s.xfc.fsm ≠ .idle := decide_eq_true_iff

theorem faultOut_iff (s : State) : s.faultOut = true ↔ s.xfc.err ≠ .none := decide_eq_true_iff

/-- Settles O11: each code by its definition, the levels by the test they decide. -/
theorem statusCodesAndLevelsAreAsListed : Obligations.StatusCodesAndLevelsAreAsListed := by
  unfold Obligations.StatusCodesAndLevelsAreAsListed
  exact ⟨rfl, rfl, rfl, rfl, rfl, rfl, rfl, rfl, rfl, rfl, rfl, rfl, rfl, rfl, rfl, rfl, rfl, rfl, rfl,
    fun s => ⟨busyOut_iff s, faultOut_iff s⟩⟩

end Sys2Proof.Machine
end

section
/-! PROOF. The family 20_memory.md: which commands write BUF, and where (R52, R54), which commands emit on which stream
(R53, R63), and what the step does in the states R39 excludes (logs 3, 4, 5). -/

namespace Sys2Proof.Machine

/-! ## Payload bytes of an open frame, whatever CNT is -/

section
variable {s : State}

theorem exec_rxbyte_rxpayload (b : Byte) (he : s.xfc.err = .none) (hf : s.xfc.fsm = .rxpayload) :
    exec (.rxbyte b) s = .next (rxPayload b s) :=
  exec_of_effect (by simp [executes, failedCheck, he, hf]) (.inr (.inr (.inr (.inl ⟨hf, rfl⟩))))

theorem exec_txdata_txpayload (b : Byte) (he : s.xfc.err = .none) (hf : s.xfc.fsm = .txpayload) :
    exec (.txdata b) s = .next (if payloadDone (txPut b s).xfc then txClose (txPut b s) else txPut b s) :=
  exec_of_effect (by simp [executes, failedCheck, he, hf]) ⟨hf, rfl⟩

theorem exec_txpad_txpayload (he : s.xfc.err = .none) (hf : s.xfc.fsm = .txpayload) :
    exec .txpad s = .next (txClose (txPutMany (size s.xfc.blk - s.xfc.cnt.toNat) s.xfc.pad s)) :=
  exec_of_effect (by simp [executes, failedCheck, he, hf]) ⟨hf, rfl⟩

end

/-! ## BUF -/

/-- The row of BUF in the write map (R43): RXBYTE in RXPAYLOAD. -/
theorem mayWrite_buf {i : Instr} {x : Xfc} (h : mayWrite .buf i x = true) :
    (∃ b, i = .rxbyte b) ∧ x.fsm = .rxpayload := by
  cases i with
  | rxbyte b => exact ⟨⟨b, rfl⟩, by simpa [mayWrite, mayWrite.mayReject] using h⟩
  | _ => simp [mayWrite, mayWrite.mayReject] at h

/-- A command that leaves another BUF stored its operand at the address CNT stands for (R52). -/
theorem exec_buf_changed {i : Instr} {s t : State} (h : exec i s = .next t) (hne : t.xfc.buf ≠ s.xfc.buf) :
    s.xfc.err = .none ∧ s.xfc.fsm = .rxpayload ∧
      ∃ b, i = .rxbyte b ∧ t.xfc.buf = s.xfc.buf.write (bufAddress s.xfc.cnt) b := by
  have hw : mayWrite .buf i s.xfc = true := by
    by_contra hw
    exact hne (writeMapListsEveryWriter .buf i s t h (Bool.eq_false_of_not_eq_true hw))
  obtain ⟨⟨b, rfl⟩, hf⟩ := mayWrite_buf hw
  have he : s.xfc.err = .none := by
    by_contra hl
    cases h.symm.trans (exec_of_latched hl rfl)
    exact hne rfl
  cases h.symm.trans (exec_rxbyte_rxpayload b he hf)
  exact ⟨he, hf, b, rfl, by rw [rxPayload_eq]⟩

/-- Settles O54: the one write to BUF is a store at CNT[9:0], and a read elsewhere does not see it. -/
theorem bufChangesOnlyAtCntInRxpayload : Obligations.BufChangesOnlyAtCntInRxpayload := by
  unfold Obligations.BufChangesOnlyAtCntInRxpayload
  intro i s t a h hread
  obtain ⟨he, hf, b, rfl, hbuf⟩ := exec_buf_changed h fun heq => hread (by rw [heq])
  obtain rfl : a = bufAddress s.xfc.cnt := by
    by_contra ha
    exact hread (by rw [hbuf, read_write_other _ _ ha])
  exact ⟨⟨b, rfl, by rw [hbuf, read_write_same]⟩, hf, he, bufAddress_lt _, bufAddress_of_lt⟩

/-! ## The streams -/

/-- What a command can emit: nothing, or output on one stream, by the commands of that stream. -/
inductive Emission (i : Instr) (s t : State) : Prop where
  | silent (htx : t.tx = s.tx) (hrx : t.rx = s.rx) (hrsp : t.rsp = s.rsp)
  | onTx (out : List Byte) (hi : (∃ k, i = .txbegin k) ∨ (∃ b, i = .txdata b) ∨ i = .txpad)
      (htx : t.tx = s.tx ++ out) (hrx : t.rx = s.rx) (hrsp : t.rsp = s.rsp)
  | onRx (out : List Byte) (hi : ∃ b, i = .rxbyte b) (hok : t.xfc.rxres = .ok) (hlen : out.length = size s.xfc.blk)
      (htx : t.tx = s.tx) (hrx : t.rx = s.rx ++ out) (hrsp : t.rsp = s.rsp)
  | onRsp (v : Word) (hi : ∃ r, i = .rd r) (htx : t.tx = s.tx) (hrx : t.rx = s.rx) (hrsp : t.rsp = s.rsp ++ [v])

section
variable {s t : State} {b : Byte}

/-- A verdict releases the payload when it is OK and nothing otherwise (R169). -/
theorem emission_verdict (ok : Bool) (s : State) : Emission (.rxbyte b) s (verdict ok s) := by
  by_cases hok : verdictCode ok s.xfc = .ok
  · have hrx : (verdict ok s).rx = s.rx ++ releasedPayload s.xfc := by
      rw [verdict_eq, if_pos hok, releasedPayload]
    exact .onRx (releasedPayload s.xfc) ⟨b, rfl⟩ hok (length_readFirst _ _) rfl hrx rfl
  · exact .silent rfl (by rw [verdict_eq, if_neg hok, List.append_nil]) rfl

theorem emission_rxbyte (he : Effect (.rxbyte b) s t) : Emission (.rxbyte b) s t := by
  rcases he with ⟨-, -, rfl⟩ | ⟨-, rfl⟩ | ⟨-, rfl⟩ | ⟨-, rfl⟩ | ⟨-, rfl⟩ | ⟨-, rfl⟩
  · cases hb : headerKind b with
    | none =>
      rw [rxIdle_noHeader hb]
      exact .silent rfl rfl rfl
    | some k =>
      rw [rxIdle_header hb]
      exact .silent rfl rfl rfl
  · exact .silent rfl rfl rfl
  · exact .silent rfl rfl rfl
  · exact .silent rfl rfl rfl
  · cases hm : s.xfc.mode with
    | checksum =>
      rw [rxTrailer1_checksum b hm]
      exact emission_verdict _ s
    | crc16 =>
      rw [rxTrailer1_crc16 b hm]
      exact .silent rfl rfl rfl
  · exact emission_verdict _ s

/-- What a command that executes emits. -/
theorem emission_effect {i : Instr} (he : Effect i s t) : Emission i s t := by
  cases i with
  | nop | init | errclr | abort =>
    subst he
    exact .silent rfl rfl rfl
  | rd r =>
    subst he
    exact .onRsp (view r s.xfc) ⟨r, rfl⟩ rfl rfl rfl
  | sumclr | sumbyte | crcclr | crcbyte | setseq | seqnext | setpad =>
    obtain ⟨-, rfl⟩ := he
    exact .silent rfl rfl rfl
  | setmode =>
    obtain ⟨-, -, rfl⟩ := he
    exact .silent rfl rfl rfl
  | txbegin k =>
    obtain ⟨-, -, rfl⟩ := he
    exact .onTx _ (.inl ⟨k, rfl⟩) rfl rfl rfl
  | txdata b =>
    obtain ⟨-, rfl⟩ := he
    split
    · exact .onTx ([b] ++ trailerBytes (txPut b s).xfc) (.inr (.inl ⟨b, rfl⟩)) (List.append_assoc _ _ _) rfl rfl
    · exact .onTx [b] (.inr (.inl ⟨b, rfl⟩)) rfl rfl rfl
  | txpad =>
    obtain ⟨-, rfl⟩ := he
    rw [txPutMany_eq]
    exact .onTx _ (.inr (.inr rfl)) (List.append_assoc _ _ _) rfl rfl
  | rxbyte b => exact emission_rxbyte he

/-- What a command emits; ignored or rejected, nothing (R232, R233). -/
theorem emission_exec {i : Instr} (h : exec i s = .next t) : Emission i s t := by
  rcases exec_cases h with ⟨-, -, rfl⟩ | ⟨-, c, -, rfl⟩ | ⟨-, he⟩
  · exact .silent rfl rfl rfl
  · exact .silent rfl rfl rfl
  · exact emission_effect he

end

/-- A stream that is as it was has grown by nothing, so nothing is asked of its growth. -/
theorem grows_by_nothing {α : Type} {old new : List α} (P : List α → Prop) (h : new = old) :
    ∃ out, new = old ++ out ∧ (out ≠ [] → P out) :=
  ⟨[], by rw [h, List.append_nil], fun hne => absurd rfl hne⟩

/-- Settles O53: at most one stream grows, by a command of that stream. -/
theorem streamsOnlyGrowAndBySomeCommandsOnly : Obligations.StreamsOnlyGrowAndBySomeCommandsOnly := by
  unfold Obligations.StreamsOnlyGrowAndBySomeCommandsOnly
  intro i s t h
  refine ⟨exec_input h, ?_⟩
  cases emission_exec h with
  | silent htx hrx hrsp => exact ⟨grows_by_nothing _ htx, grows_by_nothing _ hrx, grows_by_nothing _ hrsp⟩
  | onTx out hi htx hrx hrsp =>
    exact ⟨⟨out, htx, fun _ => hi⟩, grows_by_nothing _ hrx, grows_by_nothing _ hrsp⟩
  | onRx out hi hok hlen htx hrx hrsp =>
    exact ⟨grows_by_nothing _ htx, ⟨out, hrx, fun _ => ⟨hi, hok, hlen⟩⟩, grows_by_nothing _ hrsp⟩
  | onRsp v hi htx hrx hrsp =>
    exact ⟨grows_by_nothing _ htx, grows_by_nothing _ hrx, ⟨[v], hrsp, fun _ => ⟨hi, rfl⟩⟩⟩

/-! ## Outside the invariant: CNT at or above size(BLK) in a payload state -/

theorem cnt_add_one_eq (c : Count) : c + 1#11 = BitVec.ofNat 11 ((c.toNat + 1) % 2048) := by
  apply BitVec.eq_of_toNat_eq
  rw [BitVec.toNat_add, BitVec.toNat_ofNat]
  simp

/-- From size(BLK) up the counter does not come to size(BLK) again: it counts on, or wraps to 0 (log 5). -/
theorem cnt_add_one_ne_size {x : Xfc} (h : size x.blk ≤ x.cnt.toNat) : (x.cnt + 1#11).toNat ≠ size x.blk := by
  have hpos := size_pos x.blk
  rw [BitVec.toNat_add, BitVec.toNat_ofNat]
  omega

/-- The address stored to where CNT is past BUF (log 3). -/
theorem bufAddress_of_le {cnt : Count} (h : 1024 ≤ cnt.toNat) : bufAddress cnt = cnt.toNat - 1024 := by
  have hlt := cnt.isLt
  rw [bufAddress_eq]
  omega

section
variable {s : State} (b : Byte)

/-- A payload byte received from size(BLK) up leaves the frame in RXPAYLOAD. -/
theorem rxPayload_past_size (h : size s.xfc.blk ≤ s.xfc.cnt.toNat) :
    rxPayload b s =
      { s with xfc := { countByte b s.xfc with buf := s.xfc.buf.write (bufAddress s.xfc.cnt) b } } := by
  rw [rxPayload_eq, if_neg (cnt_add_one_ne_size h)]
  rfl

/-- A payload byte sent from size(BLK) up is not taken for the last. -/
theorem not_payloadDone_txPut (h : size s.xfc.blk ≤ s.xfc.cnt.toNat) : ¬ payloadDone (txPut b s).xfc = true :=
  mt payloadDone_iff.mp (cnt_add_one_ne_size h)

end

/-- Settles O44: each command by its own effect, with no last byte to find and no pad byte to send. -/
theorem modelChoicesOutsideTheInvariant : Obligations.ModelChoicesOutsideTheInvariant := by
  unfold Obligations.ModelChoicesOutsideTheInvariant
  refine ⟨fun b s he hf hcnt => ?_, fun b s he hf hcnt => ?_, fun s he hf hcnt => ?_⟩
  · rw [← bufAddress_of_le hcnt, ← cnt_add_one_eq, exec_rxbyte_rxpayload b he hf,
      rxPayload_past_size b ((size_le _).trans hcnt)]
    exact ⟨s.xfc.buf.write (bufAddress s.xfc.cnt) b, read_write_same _ _ _,
      fun a ha => read_write_other _ b ha, rfl⟩
  · rw [← cnt_add_one_eq, exec_txdata_txpayload b he hf, if_neg (not_payloadDone_txPut b hcnt)]
    rfl
  · rw [exec_txpad_txpayload he hf, Nat.sub_eq_zero_of_le hcnt]
    rfl

end Sys2Proof.Machine
end

section
/-! PROOF. The family 30_encoding.md, command words: the decoder and the encoder are inverse to each other, the rows of
the opcode map as conditions on the two fields (R71, R73), and the legal words, counted (R75). -/

namespace Sys2Proof

open Machine

/-- Settles O2: the rule of the decoder on encoded words. -/
theorem decodeOfEncodeIsTheCommand : Obligations.DecodeOfEncodeIsTheCommand := by
  unfold Obligations.DecodeOfEncodeIsTheCommand
  exact decode_encode

/-! ## A decoded word is the encoding of its command -/

@[simp] theorem Mode.bit_ofBit (f : BitVec 1) : (Mode.ofBit f).bit = f := by
  revert f; decide

@[simp] theorem BlockKind.bit_ofBit (f : BitVec 1) : (BlockKind.ofBit f).bit = f := by
  revert f; decide

@[simp] theorem RegView.number_ofNumber (r : BitVec 3) : (RegView.ofNumber r).number = r := by
  revert r; decide

section
variable {arg : Byte} {i j : Instr}

theorem decodeZ_eq_ok (h : decodeZ j arg = .ok i) : i = j ∧ arg = 0x00#8 := by
  unfold decodeZ at h
  split at h
  · next hz => exact ⟨(Except.ok.inj h).symm, hz⟩
  · cases h

theorem decodeF_eq_ok {g : BitVec 1 → Instr} (h : decodeF g arg = .ok i) :
    ∃ f : BitVec 1, i = g f ∧ arg = f.setWidth 8 := by
  unfold decodeF at h
  split at h
  · next hz => exact ⟨arg.extractLsb' 0 1, (Except.ok.inj h).symm, by clear h; revert arg; decide⟩
  · cases h

theorem decodeR_eq_ok {g : BitVec 3 → Instr} (h : decodeR g arg = .ok i) :
    ∃ r : BitVec 3, i = g r ∧ arg = r.setWidth 8 := by
  unfold decodeR at h
  split at h
  · next hz => exact ⟨arg.extractLsb' 0 3, (Except.ok.inj h).symm, by clear h; revert arg; decide⟩
  · cases h

end

/-- By the decoder's branches: its formats Z, R, F, B and the unassigned op bytes. -/
theorem encode_of_decodeFields {op arg : Byte} {i : Instr} (h : decodeFields op arg = .ok i) :
    encode i = commandWord op arg := by
  unfold decodeFields at h
  split at h
  case h_1 | h_2 | h_3 | h_4 | h_6 | h_8 | h_12 | h_16 =>
    obtain ⟨rfl, rfl⟩ := decodeZ_eq_ok h
    rfl
  case h_5 =>
    obtain ⟨r, rfl, rfl⟩ := decodeR_eq_ok h
    simp [encode, Instr.op, Instr.arg]
  case h_10 | h_14 =>
    obtain ⟨f, rfl, rfl⟩ := decodeF_eq_ok h
    simp [encode, Instr.op, Instr.arg]
  case h_7 | h_9 | h_11 | h_13 | h_15 | h_17 =>
    cases h
    rfl
  case h_18 => cases h

theorem encode_of_decode {w : Word} {i : Instr} (h : decode w = .ok i) : encode i = w :=
  (encode_of_decodeFields h).trans (commandWord_fields w)

/-! ## The rows of the opcode map, field by field -/

theorem commandWord_and (op op' arg arg' : Byte) :
    commandWord op arg &&& commandWord op' arg' = commandWord (op &&& op') (arg &&& arg') :=
  BitVec.and_append

theorem commandWord_inj {op op' arg arg' : Byte} :
    commandWord op arg = commandWord op' arg' ↔ op = op' ∧ arg = arg' :=
  ⟨fun h => ⟨by simpa using congrArg opField h, by simpa using congrArg argField h⟩, by rintro ⟨rfl, rfl⟩; rfl⟩

/-- How many arg values a format allows: 0 up to one less than this (R71). -/
def Format.argCount : Format → Nat
  | .z => 1
  | .b => 256
  | .f => 2
  | .r => 8

/-- The arg bits that must be zero in a format (R71). -/
def Format.argMask : Format → Byte
  | .z => 0xFF#8
  | .b => 0x00#8
  | .f => 0xFE#8
  | .r => 0xF8#8

theorem Format.argCount_le (fmt : Format) : fmt.argCount ≤ 256 := by cases fmt <;> decide

theorem Format.legalArg_iff_lt (fmt : Format) (arg : Byte) : fmt.legalArg arg = true ↔ arg.toNat < fmt.argCount := by
  have hlt := arg.isLt
  cases fmt <;> simp [Format.legalArg, Format.argCount] <;> omega

theorem Format.legalArg_iff_mask (fmt : Format) (arg : Byte) :
    fmt.legalArg arg = true ↔ arg &&& fmt.argMask = 0x00#8 := by
  cases fmt <;> revert arg <;> decide

/-- The op byte of a row (R73). -/
def OpcodeRow.op (r : OpcodeRow) : Byte := opField r.matchBits

section
variable {r r' : OpcodeRow} {w : Word}

theorem OpcodeRow.matchBits_eq (hr : r ∈ opcodeTable) : r.matchBits = commandWord r.op 0x00#8 := by
  revert r; decide

theorem OpcodeRow.mask_eq (hr : r ∈ opcodeTable) : r.mask = commandWord 0xFF#8 r.format.argMask := by
  revert r; decide

/-- The op bytes of the rows differ (R78). -/
theorem OpcodeRow.eq_of_op_eq (hr : r ∈ opcodeTable) (hr' : r' ∈ opcodeTable) (h : r.op = r'.op) : r = r' := by
  have hrows : ∀ r ∈ opcodeTable, ∀ r' ∈ opcodeTable, r.op = r'.op → r = r' := by decide
  exact hrows r hr r' hr' h

/-- What (w and mask) = match says of the two fields of w. -/
theorem OpcodeRow.accepts_iff (hr : r ∈ opcodeTable) :
    r.accepts w = true ↔ opField w = r.op ∧ r.format.legalArg (argField w) = true := by
  rw [OpcodeRow.accepts, beq_iff_eq, mask_eq hr, matchBits_eq hr, Format.legalArg_iff_mask]
  conv_lhs => rw [← commandWord_fields w, commandWord_and, commandWord_inj]
  rw [show (0xFF#8 : Byte) = BitVec.allOnes 8 from rfl, BitVec.and_allOnes]

/-! ## Rows and the decoder -/

theorem decodeZ_legal {arg : Byte} (h : Format.z.legalArg arg = true) (i : Instr) : decodeZ i arg = .ok i := by
  refine if_pos ?_
  revert arg; decide

theorem decodeF_legal {arg : Byte} (h : Format.f.legalArg arg = true) (g : BitVec 1 → Instr) :
    decodeF g arg = .ok (g (arg.extractLsb' 0 1)) := by
  refine if_pos ?_
  revert arg; decide

theorem decodeR_legal {arg : Byte} (h : Format.r.legalArg arg = true) (g : BitVec 3 → Instr) :
    decodeR g arg = .ok (g (arg.extractLsb' 0 3)) := by
  refine if_pos ?_
  revert arg; decide

theorem decodeFields_of_row {arg : Byte} (hr : r ∈ opcodeTable) (ha : r.format.legalArg arg = true) :
    ∃ i, decodeFields r.op arg = .ok i ∧ i.mnemonic = r.mnemonic := by
  simp only [opcodeTable, List.mem_cons, List.not_mem_nil, or_false] at hr
  rcases hr with rfl | rfl | rfl | rfl | rfl | rfl | rfl | rfl | rfl | rfl | rfl | rfl | rfl | rfl | rfl | rfl | rfl
  exacts [⟨.nop, decodeZ_legal ha _, rfl⟩, ⟨.init, decodeZ_legal ha _, rfl⟩, ⟨.errclr, decodeZ_legal ha _, rfl⟩,
    ⟨.abort, decodeZ_legal ha _, rfl⟩, ⟨_, decodeR_legal ha fun r => .rd (RegView.ofNumber r), rfl⟩,
    ⟨.sumclr, decodeZ_legal ha _, rfl⟩, ⟨.sumbyte arg, rfl, rfl⟩, ⟨.crcclr, decodeZ_legal ha _, rfl⟩,
    ⟨.crcbyte arg, rfl, rfl⟩, ⟨_, decodeF_legal ha fun m => .setmode (Mode.ofBit m), rfl⟩, ⟨.setseq arg, rfl, rfl⟩,
    ⟨.seqnext, decodeZ_legal ha _, rfl⟩, ⟨.setpad arg, rfl, rfl⟩,
    ⟨_, decodeF_legal ha fun k => .txbegin (BlockKind.ofBit k), rfl⟩, ⟨.txdata arg, rfl, rfl⟩,
    ⟨.txpad, decodeZ_legal ha _, rfl⟩, ⟨.rxbyte arg, rfl, rfl⟩]

/-- A word a row accepts is a command of the row, and the encoding of it (R73, R78). -/
theorem decode_of_accepts (hr : r ∈ opcodeTable) (h : r.accepts w = true) :
    ∃ i, decode w = .ok i ∧ i.mnemonic = r.mnemonic ∧ encode i = w := by
  obtain ⟨hop, harg⟩ := (OpcodeRow.accepts_iff hr).mp h
  obtain ⟨i, hi, hm⟩ := decodeFields_of_row hr harg
  have hdec : decode w = .ok i := by rw [decode, hop, hi]
  exact ⟨i, hdec, hm, encode_of_decode hdec⟩

/-! ## Legal words, without the decoder (R75) -/

theorem wellFormed_encode (i : Instr) : (rawCommand (encode i)).wellFormed = true :=
  match i with
  | .nop => Laws.EncodedWordIsWellFormed.nop
  | .init => Laws.EncodedWordIsWellFormed.init
  | .errclr => Laws.EncodedWordIsWellFormed.errclr
  | .abort => Laws.EncodedWordIsWellFormed.abort
  | .rd r => Laws.EncodedWordIsWellFormed.rd r
  | .sumclr => Laws.EncodedWordIsWellFormed.sumclr
  | .sumbyte b => Laws.EncodedWordIsWellFormed.sumbyte b
  | .crcclr => Laws.EncodedWordIsWellFormed.crcclr
  | .crcbyte b => Laws.EncodedWordIsWellFormed.crcbyte b
  | .setmode m => Laws.EncodedWordIsWellFormed.setmode m
  | .setseq v => Laws.EncodedWordIsWellFormed.setseq v
  | .seqnext => Laws.EncodedWordIsWellFormed.seqnext
  | .setpad v => Laws.EncodedWordIsWellFormed.setpad v
  | .txbegin k => Laws.EncodedWordIsWellFormed.txbegin k
  | .txdata b => Laws.EncodedWordIsWellFormed.txdata b
  | .txpad => Laws.EncodedWordIsWellFormed.txpad
  | .rxbyte b => Laws.EncodedWordIsWellFormed.rxbyte b

/-- The assigned op bytes and their formats are those of the rows. -/
theorem exists_row_of_formatOfOp {op : Byte} {fmt : Format} (h : formatOfOp op = some fmt) :
    ∃ r ∈ opcodeTable, op = r.op ∧ r.format = fmt := by
  unfold formatOfOp at h
  split_ifs at h with hop hop hop hop <;> cases h
  · revert op; decide
  · revert op; decide
  · revert op; decide
  · subst hop; decide

/-- A well-formed word is accepted by the row of its op. -/
theorem exists_row_of_wellFormed (h : (rawCommand w).wellFormed = true) : ∃ r ∈ opcodeTable, r.accepts w = true := by
  unfold RawCommand.wellFormed at h
  split at h
  · next fmt hfmt =>
    obtain ⟨r, hr, hop, rfl⟩ := exists_row_of_formatOfOp hfmt
    exact ⟨r, hr, (OpcodeRow.accepts_iff hr).mpr ⟨hop, h⟩⟩
  · cases h

theorem decode_ok_iff_wellFormed : (∃ i, decode w = .ok i) ↔ (rawCommand w).wellFormed = true := by
  constructor
  · rintro ⟨i, hi⟩
    exact encode_of_decode hi ▸ wellFormed_encode i
  · intro h
    obtain ⟨r, hr, hacc⟩ := exists_row_of_wellFormed h
    obtain ⟨i, hi, -⟩ := decode_of_accepts hr hacc
    exact ⟨i, hi⟩

theorem decode_ok_iff_accepted : (∃ i, decode w = .ok i) ↔ ∃ r ∈ opcodeTable, r.accepts w = true := by
  refine ⟨fun h => exists_row_of_wellFormed (decode_ok_iff_wellFormed.mp h), ?_⟩
  rintro ⟨r, hr, hacc⟩
  obtain ⟨i, hi, -⟩ := decode_of_accepts hr hacc
  exact ⟨i, hi⟩

theorem decode_error_of_not_ok (h : ¬ ∃ i, decode w = .ok i) : ∃ e, decode w = .error e := by
  cases hw : decode w with
  | ok i => exact absurd ⟨i, hw⟩ h
  | error e => exact ⟨e, rfl⟩

/-- The rows are disjoint (R78). -/
theorem OpcodeRow.eq_of_accepts (hr : r ∈ opcodeTable) (hr' : r' ∈ opcodeTable) (h : r.accepts w = true)
    (h' : r'.accepts w = true) : r = r' := by
  obtain ⟨hop, -⟩ := (accepts_iff hr).mp h
  obtain ⟨hop', -⟩ := (accepts_iff hr').mp h'
  exact eq_of_op_eq hr hr' (hop.symm.trans hop')

end

/-- Settles O3: row by row, with the rows told apart by their op bytes. -/
theorem decoderFollowsTheOpcodeMap : Obligations.DecoderFollowsTheOpcodeMap := by
  unfold Obligations.DecoderFollowsTheOpcodeMap
  refine ⟨fun w r hr r' hr' => OpcodeRow.eq_of_accepts hr hr', fun w r hr => decode_of_accepts hr, fun w h => ?_⟩
  refine decode_error_of_not_ok fun hok => ?_
  obtain ⟨r, hr, hacc⟩ := decode_ok_iff_accepted.mp hok
  exact Bool.false_ne_true ((h r hr).symm.trans hacc)

/-! ## The legal words, counted (R75) -/

/-- The words a row stands for. -/
def OpcodeRow.words (r : OpcodeRow) : List Word :=
  (List.range r.format.argCount).map fun a => commandWord r.op (BitVec.ofNat 8 a)

/-- Every word of every row. -/
def legalWords : List Word := opcodeTable.flatMap OpcodeRow.words

section
variable {r : OpcodeRow} {w : Word}

theorem OpcodeRow.mem_words (hr : r ∈ opcodeTable) : w ∈ r.words ↔ r.accepts w = true := by
  rw [accepts_iff hr, Format.legalArg_iff_lt, words, List.mem_map]
  constructor
  · rintro ⟨a, ha, rfl⟩
    have hlt := List.mem_range.mp ha
    have hle := r.format.argCount_le
    simp only [opField_commandWord, argField_commandWord, BitVec.toNat_ofNat, true_and]
    omega
  · rintro ⟨hop, harg⟩
    refine ⟨(argField w).toNat, List.mem_range.mpr harg, ?_⟩
    rw [← hop, BitVec.ofNat_toNat, BitVec.setWidth_eq, commandWord_fields]

theorem OpcodeRow.nodup_words (r : OpcodeRow) : r.words.Nodup := by
  refine List.nodup_range.map_on fun a ha b hb hab => ?_
  have ha := List.mem_range.mp ha
  have hb := List.mem_range.mp hb
  have hle := r.format.argCount_le
  have heq := congrArg BitVec.toNat (commandWord_inj.mp hab).2
  simp only [BitVec.toNat_ofNat] at heq
  omega

theorem mem_legalWords : w ∈ legalWords ↔ ∃ i, decode w = .ok i := by
  rw [decode_ok_iff_accepted, legalWords, List.mem_flatMap]
  exact exists_congr fun r => and_congr_right OpcodeRow.mem_words

theorem length_legalWords : legalWords.length = 1556 := by
  simp [legalWords, OpcodeRow.words, opcodeTable, Format.argCount]

theorem nodup_legalWords : legalWords.Nodup := by
  refine List.nodup_flatMap.mpr ⟨fun r _ => r.nodup_words, ?_⟩
  have hrows : opcodeTable.Nodup := by decide
  refine List.Pairwise.imp_of_mem (fun {r r'} hr hr' hne w hw hw' => hne ?_) hrows
  exact OpcodeRow.eq_of_accepts hr hr' ((OpcodeRow.mem_words hr).mp hw) ((OpcodeRow.mem_words hr').mp hw')

end

/-- Settles O4: the legal words are those of the rows; a step on any other word is the rule of the illegal word. -/
theorem legalWordsAreTheAssignedOnes : Obligations.LegalWordsAreTheAssignedOnes := by
  unfold Obligations.LegalWordsAreTheAssignedOnes
  refine ⟨fun w => decode_ok_iff_wellFormed,
    ⟨legalWords, nodup_legalWords, length_legalWords, fun w => mem_legalWords⟩, fun s w rest hin hbad => ?_⟩
  obtain ⟨e, he⟩ := decode_error_of_not_ok hbad
  rw [step_command_error hin he]
  exact ⟨illegalWord_clear (s := { s with input := rest }), illegalWord_latched (s := { s with input := rest })⟩

/-- Settles O1: each word by running the decoder on it. -/
theorem wordsOfTheOpcodeMapDecode : Obligations.WordsOfTheOpcodeMapDecode := by
  unfold Obligations.WordsOfTheOpcodeMapDecode
  exact ⟨rfl, rfl, rfl, rfl, rfl, rfl, rfl, rfl, rfl⟩

end Sys2Proof
end

section
/-! PROOF. The family 30_encoding.md, the text of a program: a command's line is split into its words and read back
(R79), and the pseudo-instructions (R80). -/

namespace Sys2Proof.Machine

/-! ## The words of a line -/

theorem stripComment_eq_self {cs : List Char} (h : ∀ c ∈ cs, c ≠ '#') : stripComment cs = cs :=
  List.takeWhile_eq_self_iff.mpr fun c hc => bne_iff_ne.mpr (h c hc)

/-- A word with no space in it goes, whole, in front of the word being read. -/
theorem foldr_tokenStep_word {w : List Char} (h : ∀ c ∈ w, c ≠ ' ') (acc : List Char × List (List Char)) :
    w.foldr tokenStep acc = (w ++ acc.1, acc.2) := by
  induction w with
  | nil => rfl
  | cons c w ih =>
    obtain ⟨hc, hw⟩ := List.forall_mem_cons.mp h
    rw [List.foldr_cons, ih hw, tokenStep, if_neg hc, List.cons_append]

theorem tokens_two_words {v w : List Char} (hv : ∀ c ∈ v, c ≠ ' ') (hw : ∀ c ∈ w, c ≠ ' ') (hv0 : v ≠ [])
    (hw0 : w ≠ []) : tokens (v ++ ' ' :: w) = [v, w] := by
  simp [tokens, foldr_tokenStep_word hv, foldr_tokenStep_word hw, tokenStep, hv0, hw0]

/-! ## Commands with a byte operand -/

theorem digitValue_hexChar (n : BitVec 4) : digitValue 16 (hexChar n) = some n.toNat := by
  revert n; decide

/-- The two hexadecimal digits written for a byte are read as that byte. -/
theorem byteOperand_byteText (b : Byte) : byteOperand (byteText b) = some b := by
  have hjoin : BitVec.ofNat 8 (16 * (b.extractLsb' 4 4).toNat + (b.extractLsb' 0 4).toNat) = b := by
    apply BitVec.eq_of_toNat_eq
    simp only [BitVec.toNat_ofNat, BitVec.extractLsb'_toNat, Nat.shiftRight_eq_div_pow]
    omega
  simp only [byteText, byteOperand, digitValue_hexChar, Option.bind_some, Option.map_some, hjoin]

theorem byteText_chars (b : Byte) : ∀ c ∈ byteText b, c ≠ ' ' ∧ c ≠ '#' := by
  have hdigit : ∀ n : BitVec 4, hexChar n ≠ ' ' ∧ hexChar n ≠ '#' := by decide
  simp [byteText, hdigit]

/-- The names of the commands with a byte operand are words, and none is the name of a command with a symbolic one. -/
theorem namesB_names : ∀ p ∈ namesB,
    p.1 ≠ [] ∧ (∀ c ∈ p.1, c ≠ ' ' ∧ c ≠ '#') ∧ ∀ q ∈ namesSymbolic, q.1.1 ≠ p.1 := by
  simp [namesB, namesSymbolic]

/-- A line of such a name and a byte, as R79 writes it. -/
theorem assembleLine_byteText {f : Byte → Instr} (name : List Char) (hB : namesB.lookup name = some f) (b : Byte) :
    assembleLine (name ++ ' ' :: byteText b) = some [f b] := by
  have hmem : (name, f) ∈ namesB := by
    obtain ⟨l, l', hl, -⟩ := List.lookup_eq_some_iff.mp hB
    simp [hl]
  obtain ⟨hne, hname, hsym⟩ := namesB_names _ hmem
  have hstrip : stripComment (name ++ ' ' :: byteText b) = name ++ ' ' :: byteText b := by
    refine stripComment_eq_self (List.forall_mem_append.mpr ⟨fun c hc => (hname c hc).2, ?_⟩)
    exact List.forall_mem_cons.mpr ⟨by decide, fun c hc => (byteText_chars b c hc).2⟩
  have htokens : tokens (name ++ ' ' :: byteText b) = [name, byteText b] :=
    tokens_two_words (fun c hc => (hname c hc).1) (fun c hc => (byteText_chars b c hc).1) hne (List.cons_ne_nil _ _)
  have hnone : namesSymbolic.lookup (name, byteText b) = none :=
    List.lookup_eq_none_iff.mpr fun q hq => bne_iff_ne.mpr fun h => hsym q hq (congrArg Prod.fst h).symm
  simp only [assembleLine, hstrip, htokens, assembleCommand, hnone, hB, byteOperand_byteText]

/-- Settles O5: by running the assembler on a line without a byte, by the rule of byte operands on the others. -/
theorem assemblerReadsEveryCommandLine : Obligations.AssemblerReadsEveryCommandLine := by
  unfold Obligations.AssemblerReadsEveryCommandLine
  intro i
  cases i with
  | nop | init | errclr | abort | sumclr | crcclr | seqnext | txpad => rfl
  | rd r => cases r <;> rfl
  | setmode m => cases m <;> rfl
  | txbegin k => cases k <;> rfl
  | sumbyte b => exact assembleLine_byteText ['S', 'U', 'M', 'B', 'Y', 'T', 'E'] rfl b
  | crcbyte b => exact assembleLine_byteText ['C', 'R', 'C', 'B', 'Y', 'T', 'E'] rfl b
  | setseq v => exact assembleLine_byteText ['S', 'E', 'T', 'S', 'E', 'Q'] rfl v
  | setpad v => exact assembleLine_byteText ['S', 'E', 'T', 'P', 'A', 'D'] rfl v
  | txdata b => exact assembleLine_byteText ['T', 'X', 'D', 'A', 'T', 'A'] rfl b
  | rxbyte b => exact assembleLine_byteText ['R', 'X', 'B', 'Y', 'T', 'E'] rfl b

/-! ## Pseudo-instructions (R80) -/

theorem expand_txframe_short {k : BlockKind} {bs : List Byte} (hpos : 1 ≤ bs.length) (hlt : bs.length < size k) :
    (Pseudo.txframe k bs).expand = some (.txbegin k :: (bs.map .txdata ++ [.txpad])) := by
  rw [Pseudo.expand, if_pos ⟨hpos, hlt.le⟩, txFrameCommands, if_pos hlt, List.cons_append]

theorem expand_txframe_full {k : BlockKind} {bs : List Byte} (hlen : bs.length = size k) :
    (Pseudo.txframe k bs).expand = some (.txbegin k :: bs.map .txdata) := by
  have hpos : 1 ≤ bs.length := hlen ▸ size_pos k
  rw [Pseudo.expand, if_pos ⟨hpos, hlen.le⟩, txFrameCommands, if_neg hlen.not_lt, List.append_nil]

/-- Settles O6: TXFRAME by the length of its block, the others by their definitions. -/
theorem pseudoInstructionsExpandAsListed : Obligations.PseudoInstructionsExpandAsListed := by
  unfold Obligations.PseudoInstructionsExpandAsListed
  exact ⟨rfl, rfl, rfl, fun _ => rfl, fun _ => rfl, fun _ _ => expand_txframe_short, fun _ _ => expand_txframe_full,
    fun _ => rfl⟩

end Sys2Proof.Machine
end

section
/-! PROOF. The family 30_encoding.md, wire frames: the layout of an encoded frame (R81) and its complement byte
(R83). -/

namespace Sys2Proof.Machine

/-! ## Encoded frames -/

theorem kindOfLength_eq_some {n : Nat} {k : BlockKind} : kindOfLength n = some k ↔ n = size k := by
  unfold kindOfLength
  cases k with
  | soh => split_ifs <;> simp_all [size]
  | stx => split_ifs <;> simp_all [size]

/-- A frame is encoded for a payload of a whole block only, and then it is header, payload and trailer (R140). -/
theorem encodeFrame_eq_some {seq : Byte} {q : List Byte} {mode : Mode} {f : List Byte} :
    encodeFrame seq q mode = some f ↔
      ∃ k, q.length = size k ∧ f = [hdr k, seq, complement seq] ++ q ++ frameTrailer mode q := by
  unfold encodeFrame
  split
  · next k hk =>
    simp only [← kindOfLength_eq_some, hk, Option.some.injEq, exists_eq_left', eq_comm]
  · next hk => simp [← kindOfLength_eq_some, hk]

theorem length_frameTrailer (mode : Mode) (q : List Byte) : (frameTrailer mode q).length = tlen mode := by
  cases mode <;> rfl

/-- Settles O38: the encoded frame of a whole block, part by part. -/
theorem encodedFrameLayout : Obligations.EncodedFrameLayout := by
  unfold Obligations.EncodedFrameLayout
  intro k seq q mode hq
  refine ⟨_, encodeFrame_eq_some.mpr ⟨k, hq, rfl⟩, ?_, ?_, rfl, rfl, ?_, ?_⟩
  · simp only [List.length_append, length_frameTrailer, hq]
    cases k <;> cases mode <;> rfl
  · cases k <;> rfl
  · exact List.take_left' hq
  · rw [← List.drop_drop]
    exact (List.drop_left' hq).trans (by cases mode <;> rfl)

/-! ## The complement byte (R83) -/

theorem complement_eq_not (seq : Byte) : complement seq = ~~~seq := BitVec.allOnes_sub_eq_not seq

theorem toNat_add_complement (seq : Byte) : seq.toNat + (complement seq).toNat = 0xFF := by
  have hlt := seq.isLt
  rw [complement_eq_not, BitVec.toNat_not]
  omega

/-- The sum of two bytes is below 512, so it is 0xFF modulo 256 only when it is 0xFF. -/
theorem sum_eq_ff_iff (a b : Byte) : a.toNat + b.toNat = 0xFF ↔ a + b = 0xFF#8 := by
  have ha := a.isLt
  have hb := b.isLt
  rw [← BitVec.toNat_inj, BitVec.toNat_add, BitVec.toNat_ofNat]
  omega

/-- Settles O37: the bytes by the layout of an encoded frame, the check by the range of a byte sum. -/
theorem complementByteAndItsCheck : Obligations.ComplementByteAndItsCheck := by
  unfold Obligations.ComplementByteAndItsCheck
  refine ⟨fun seq q mode f hf => ?_, fun seq => ⟨toNat_add_complement seq, complement_eq_not seq⟩, sum_eq_ff_iff,
    rfl, rfl, rfl, rfl⟩
  obtain ⟨k, -, rfl⟩ := encodeFrame_eq_some.mp hf
  exact ⟨rfl, rfl⟩

end Sys2Proof.Machine
end

section
/-! PROOF. The family 40_checksum.md: the checksum as a running sum (R100, R101), SUMCLR and SUMBYTE (R102, R103), and
the checksum of a byte sequence computed with them (R104). -/

namespace Sys2Proof.Machine

/-! ## The checksum of a sequence (R101) -/

theorem toNat_sumStep (s b : Byte) : (sumStep s b).toNat = (s.toNat + b.toNat) % 256 := BitVec.toNat_add s b

theorem sumStep_zero (s : Byte) : sumStep s 0x00#8 = s := BitVec.add_zero s

theorem checksum_eq_foldl (p : List Byte) : checksum p = p.foldl sumStep 0x00#8 :=
  ((foldl_sumStep p 0x00#8).trans (BitVec.zero_add _)).symm

theorem checksum_append_list (p q : List Byte) : checksum (p ++ q) = sumStep (checksum p) (checksum q) := by
  rw [checksum_eq_foldl (p ++ q), List.foldl_append, ← checksum_eq_foldl p, foldl_sumStep, sumStep]

theorem checksum_perm {p q : List Byte} (h : p.Perm q) : checksum p = checksum q := by
  have hsum : (p.map BitVec.toNat).sum = (q.map BitVec.toNat).sum := (h.map BitVec.toNat).sum_eq
  rw [checksum, checksum, hsum]

theorem checksum_replicate (n : Nat) (b : Byte) :
    checksum (List.replicate n b) = BitVec.ofNat 8 ((n * b.toNat) % 256) := by
  rw [checksum, List.map_replicate, List.sum_replicate, smul_eq_mul]

/-- Settles O19: each consequence by the law of the checksum that it is. -/
theorem checksumIsTheRunningSumAndAdditive : Obligations.ChecksumIsTheRunningSumAndAdditive := by
  unfold Obligations.ChecksumIsTheRunningSumAndAdditive
  refine ⟨toNat_sumStep, checksum_eq_foldl, fun p q => ?_, fun p q => checksum_perm, sumStep_zero, fun b => ?_, ?_⟩
  · rw [checksum_append_list, toNat_sumStep]
  · rw [checksum_replicate, Nat.mul_mod_right]
  · rw [checksum_replicate]
    decide

/-- Settles O21: the two sums, by running the function on them. -/
theorem checksumOfTheSourceExamples : Obligations.ChecksumOfTheSourceExamples := by
  unfold Obligations.ChecksumOfTheSourceExamples
  decide

/-! ## SUMCLR and SUMBYTE (R102, R103) -/

theorem toNat_commandWord (op arg : Byte) : (commandWord op arg).toNat = 256 * op.toNat + arg.toNat := by
  rw [commandWord, BitVec.toNat_append, ← Nat.shiftLeft_add_eq_or_of_lt arg.isLt, Nat.shiftLeft_eq, Nat.mul_comm]

/-- A command word as the sum the rules write, for instance 0x1100 + b (R73). -/
theorem commandWord_eq_add (op arg : Byte) : commandWord op arg = commandWord op 0x00#8 + arg.setWidth 16 := by
  have hop := op.isLt
  have harg := arg.isLt
  apply BitVec.eq_of_toNat_eq
  simp only [BitVec.toNat_add, toNat_commandWord, BitVec.toNat_setWidth, BitVec.toNat_ofNat]
  omega

section
variable {s : State}

theorem exec_sumclr_idle (he : s.xfc.err = .none) (hf : s.xfc.fsm = .idle) :
    exec .sumclr s = .next (s.update fun x => { x with sum := 0x00#8 }) :=
  exec_of_effect (by simp [executes, failedCheck, he, hf]) ⟨hf, rfl⟩

theorem exec_sumbyte_idle (b : Byte) (he : s.xfc.err = .none) (hf : s.xfc.fsm = .idle) :
    exec (.sumbyte b) s = .next (s.update fun x => { x with sum := sumStep x.sum b }) :=
  exec_of_effect (by simp [executes, failedCheck, he, hf]) ⟨hf, rfl⟩

end

/-- Settles O17: SUMCLR by its effect in IDLE and by its one check elsewhere. -/
theorem sumclrClearsTheChecksum : Obligations.SumclrClearsTheChecksum := by
  unfold Obligations.SumclrClearsTheChecksum
  exact ⟨rfl, fun s he => ⟨exec_sumclr_idle he, fun hf => exec_of_failedCheck he (by simp [failedCheck, hf])⟩⟩

/-- Settles O18: SUMBYTE by its effect in IDLE and by its one check elsewhere. -/
theorem sumbyteAddsModulo256 : Obligations.SumbyteAddsModulo256 := by
  unfold Obligations.SumbyteAddsModulo256
  refine ⟨fun b => ?_, fun b s he => ⟨fun hf => ?_, fun hf => ?_⟩⟩
  · exact (congrArg decode (commandWord_eq_add 0x11#8 b)).symm.trans (decode_encode (.sumbyte b))
  · rw [exec_sumbyte_idle b he hf, ← toNat_sumStep, BitVec.ofNat_toNat, BitVec.setWidth_eq]
    rfl
  · exact exec_of_failedCheck he (by simp [failedCheck, hf])

/-! ## The commands that compute a checksum (R104) -/

theorem runCommands_append {is : List Instr} {s t : State} (js : List Instr) (h : runCommands is s = .next t) :
    runCommands (is ++ js) s = runCommands js t := by
  induction is generalizing s with
  | nil =>
    cases h
    rfl
  | cons i is ih =>
    obtain ⟨u, hu⟩ := exec_total i s
    rw [runCommands_cons is hu] at h
    rw [List.cons_append, runCommands_cons (is ++ js) hu, ih h]

/-- SUMBYTE for each byte of p folds the step function over p, from whatever SUM is. -/
theorem runCommands_sumbytes (p : List Byte) {s : State} (he : s.xfc.err = .none) (hf : s.xfc.fsm = .idle) :
    runCommands (p.map .sumbyte) s = .next (s.update fun x => { x with sum := p.foldl sumStep x.sum }) := by
  induction p generalizing s with
  | nil => rfl
  | cons b p ih =>
    rw [List.map_cons, runCommands_cons _ (exec_sumbyte_idle b he hf)]
    exact ih he hf

/-- From SUM = 0 the bytes and RD SUM answer the checksum. -/
theorem runCommands_sumbytes_rd (p : List Byte) {s : State} (he : s.xfc.err = .none) (hf : s.xfc.fsm = .idle)
    (hsum : s.xfc.sum = 0x00#8) :
    runCommands (p.map .sumbyte ++ [.rd .sum]) s =
      .next { s with xfc := { s.xfc with sum := checksum p }, rsp := s.rsp ++ [(checksum p).setWidth 16] } := by
  rw [runCommands_append _ (runCommands_sumbytes p he hf), checksum_eq_foldl, ← hsum]
  rfl

/-- Settles O20: SUMCLR makes SUM 0, from where the bytes and RD SUM answer the checksum. -/
theorem checksumCommandsAnswerTheChecksum : Obligations.ChecksumCommandsAnswerTheChecksum := by
  unfold Obligations.ChecksumCommandsAnswerTheChecksum
  intro p s he hf
  refine ⟨?_, runCommands_sumbytes_rd p he hf⟩
  rw [runCommands_cons _ (exec_sumclr_idle he hf)]
  exact runCommands_sumbytes_rd p (s := s.update fun x => { x with sum := 0x00#8 }) he hf rfl

end Sys2Proof.Machine
end

section
/-! PROOF. The family 41_crc16.md: the bit step and the byte step of the CRC as maps linear over xor (R111, R112), the
properties of the CRC that follow (R118), CRCCLR and CRCBYTE (R114, R115), and the CRC computed with them (R116). -/

namespace Sys2Proof.Machine

/-! ## The bit step (R111) -/

/-- The polynomial where a bit is 1. -/
def polynomialIf (b : Bool) : Word := if b then 0x1021#16 else 0x0000#16

theorem polynomialIf_xor (a b : Bool) : polynomialIf (a ^^ b) = polynomialIf a ^^^ polynomialIf b := by
  cases a <;> cases b <;> rfl

theorem crcBit_eq (c : Word) (d : Bool) : crcBit c d = c <<< 1 ^^^ polynomialIf (c.getLsbD 15 ^^ d) := by
  simp only [crcBit, polynomialIf, Config.crcPolynomial, Bool.bne_eq_xor]
  split
  · rfl
  · exact BitVec.xor_zero.symm

/-- The bit step is linear over xor, in register and data bit together. -/
theorem crcBit_xor (c c' : Word) (d d' : Bool) : crcBit (c ^^^ c') (d ^^ d') = crcBit c d ^^^ crcBit c' d' := by
  simp only [crcBit_eq, BitVec.getLsbD_xor, polynomialIf_xor, BitVec.shiftLeft_xor_distrib]
  ac_rfl

/-- A data bit equal to the bit that leaves the register cancels it. -/
theorem crcBit_getLsbD_self (c : Word) : crcBit c (c.getLsbD 15) = c <<< 1 := by
  rw [crcBit_eq, Bool.xor_self]
  exact BitVec.xor_zero

/-! ## Eight shifts of the register -/

/-- The step of the byte-first form: a bit step whose data bit is in the register already. -/
def crcShift (r : Word) : Word := if r.getLsbD 15 then (r <<< 1) ^^^ 0x1021#16 else r <<< 1

theorem crcShift_eq_crcBit (r : Word) : crcShift r = crcBit r false := by
  rw [crcBit, Bool.bne_false]
  rfl

/-- A word put into the register beforehand hands its highest bit to the bit step and moves up. -/
theorem crcShift_xor (c y : Word) : crcShift (c ^^^ y) = crcBit c (y.getLsbD 15) ^^^ y <<< 1 := by
  rw [crcShift_eq_crcBit, ← crcBit_getLsbD_self y, ← crcBit_xor, Bool.xor_self]

theorem getLsbD_zero_crcShift (r : Word) : (crcShift r).getLsbD 0 = r.getLsbD 15 := by
  rw [crcShift]
  split <;> simp_all

/-- Bit 0 after the shift is the bit that left, and the other fifteen bits follow from it. -/
theorem crcShift_injective : Function.Injective crcShift := by
  intro r r' h
  have htop : r.getLsbD 15 = r'.getLsbD 15 := by rw [← getLsbD_zero_crcShift, h, getLsbD_zero_crcShift]
  have hlow : r <<< 1 = r' <<< 1 := by
    simpa only [crcShift_eq_crcBit, crcBit_eq, htop, BitVec.xor_left_inj] using h
  apply BitVec.eq_of_getLsbD_eq
  intro i hi
  rcases (Nat.le_of_lt_succ hi).eq_or_lt with rfl | hlt
  · exact htop
  · simpa [hi, Nat.succ_lt_succ hlt] using congrArg (fun w : Word => w.getLsbD (i + 1)) hlow

/-! ## The byte step (R112) -/

/-- Eight shifts feed the high byte of a word put into the register beforehand and move up its low byte. -/
theorem iterate_crcShift_xor (c y : Word) : crcShift^[8] (c ^^^ y) = crcByte c (hiByte y) ^^^ y <<< 8 := by
  simp [crcShift_xor, crcByte, hiByte, ← BitVec.shiftLeft_add]

theorem joinBytes_shiftLeft (h l : Byte) : joinBytes h l <<< 8 = joinBytes l 0x00#8 := by
  calc joinBytes h l <<< 8
      = joinBytes (loByte (joinBytes h l)) 0x00#8 := BitVec.shiftLeft_eq_concat_of_lt (by decide)
    _ = joinBytes l 0x00#8 := by rw [loByte_joinBytes]

theorem crcByte_eq_iterate (c : Word) (b : Byte) : crcByte c b = crcShift^[8] (c ^^^ joinBytes b 0x00#8) := by
  rw [iterate_crcShift_xor, hiByte_joinBytes, joinBytes_shiftLeft]
  exact BitVec.xor_zero.symm

theorem joinBytes_xor (h l h' l' : Byte) :
    joinBytes h l ^^^ joinBytes h' l' = joinBytes (h ^^^ h') (l ^^^ l') := BitVec.xor_append

/-- Feeding the high byte of the register leaves the low byte, moved up. -/
theorem crcByte_joinBytes (h l : Byte) : crcByte (joinBytes h l) h = joinBytes l 0x00#8 := by
  have hzero : crcByte 0x0000#16 0x00#8 = 0x0000#16 := rfl
  calc crcByte (joinBytes h l) h
      = crcShift^[8] (0x0000#16 ^^^ joinBytes 0x00#8 l) := by
        rw [crcByte_eq_iterate, joinBytes_xor, BitVec.xor_self, BitVec.zero_xor, BitVec.xor_zero]
    _ = joinBytes l 0x00#8 := by
        rw [iterate_crcShift_xor, hiByte_joinBytes, joinBytes_shiftLeft, hzero, BitVec.zero_xor]

theorem crcByte_xor (c c' : Word) (b b' : Byte) :
    crcByte (c ^^^ c') (b ^^^ b') = crcByte c b ^^^ crcByte c' b' := by
  simp [crcByte, crcBit_xor]

theorem crcByte_injective_register (b : Byte) : Function.Injective fun c => crcByte c b := by
  intro c c' h
  simp only [crcByte_eq_iterate] at h
  exact (BitVec.xor_left_inj _).mp (crcShift_injective.iterate 8 h)

theorem crcByte_injective_byte (c : Word) : Function.Injective fun b => crcByte c b := by
  intro b b' h
  simp only [crcByte_eq_iterate] at h
  have hjoin := (BitVec.xor_right_inj _).mp (crcShift_injective.iterate 8 h)
  simpa [hiByte_joinBytes] using congrArg hiByte hjoin

theorem crcByte_bijective_register (b : Byte) : Function.Bijective fun c => crcByte c b :=
  Finite.injective_iff_bijective.mp (crcByte_injective_register b)

/-- Settles O24: the bit step by its two cases, the byte step by unrolling it, the equal form by linearity. -/
theorem crcByteEqualsTheByteFirstForm : Obligations.CrcByteEqualsTheByteFirstForm := by
  unfold Obligations.CrcByteEqualsTheByteFirstForm
  refine ⟨fun c d => ?_, fun c b => rfl, crcByte_eq_iterate⟩
  have hshift : c <<< 1 = c.extractLsb' 0 15 ++ 0#1 := BitVec.shiftLeft_eq_concat_of_lt (by decide)
  rw [← hshift, crcBit, Bool.bne_eq_xor]
  rfl

/-! ## The CRC of a sequence (R118) -/

/-- Linear from any two registers. -/
theorem foldl_crcByte_xor {p q : List Byte} (h : p.length = q.length) (c c' : Word) :
    (List.zipWith (fun a b => a ^^^ b) p q).foldl crcByte (c ^^^ c') = p.foldl crcByte c ^^^ q.foldl crcByte c' := by
  induction p generalizing q c c' with
  | nil =>
    obtain rfl := List.length_eq_zero_iff.mp h.symm
    rfl
  | cons a p ih =>
    cases q with
    | nil => cases h
    | cons b q => simpa [crcByte_xor] using ih (Nat.succ.inj h) (crcByte c a) (crcByte c' b)

theorem crc16_zero_cons (p : List Byte) : crc16 (0x00#8 :: p) = crc16 p := rfl

theorem crc16_replicate_zero (n : Nat) : crc16 (List.replicate n 0x00#8) = 0x0000#16 := by
  induction n with
  | zero => rfl
  | succ n ih => rw [List.replicate_succ, crc16_zero_cons, ih]

/-- Each trailer byte is the high byte of the register when it is fed, so nothing of the CRC is left. -/
theorem crc16_append_own_crc (p : List Byte) : crc16 (p ++ [hiByte (crc16 p), loByte (crc16 p)]) = 0x0000#16 := by
  have hhigh := crcByte_joinBytes (hiByte (crc16 p)) (loByte (crc16 p))
  rw [joinBytes_hi_lo] at hhigh
  rw [List.append_cons, crc16_append, crc16_append, hhigh, crcByte_joinBytes]
  rfl

/-- Settles O25: each property by the law of the CRC that it is. -/
theorem crcLinearityResidueAndBijectivity : Obligations.CrcLinearityResidueAndBijectivity := by
  unfold Obligations.CrcLinearityResidueAndBijectivity
  exact ⟨fun p q h => foldl_crcByte_xor h Config.crcInitial Config.crcInitial, crc16_zero_cons, crc16_replicate_zero,
    crc16_append_own_crc, crcByte_bijective_register, crcByte_injective_byte⟩

/-- Settles O27: the steps of the trace by running them, the CRC of the vector by following the trace. -/
theorem crcTraceOfTheReferenceVector : Obligations.CrcTraceOfTheReferenceVector := by
  unfold Obligations.CrcTraceOfTheReferenceVector
  have h12 : crcByte 0x0000#16 0x12#8 = 0x3273#16 := rfl
  have h34 : crcByte 0x3273#16 0x34#8 = 0x13C6#16 := rfl
  have h56 : crcByte 0x13C6#16 0x56#8 = 0xDE61#16 := rfl
  have h78 : crcByte 0xDE61#16 0x78#8 = 0xB42C#16 := rfl
  have h09 : crcByte 0xB42C#16 0x09#8 = 0x5A76#16 := rfl
  have hvector : crc16 [0x12#8, 0x34#8, 0x56#8, 0x78#8, 0x09#8] = 0x5A76#16 := by
    simp only [crc16, Config.crcInitial, List.foldl_cons, List.foldl_nil, h12, h34, h56, h78, h09]
  exact ⟨h12, h34, h56, h78, h09, hvector, rfl, rfl, rfl, rfl, rfl, rfl, rfl, rfl⟩

/-! ## CRCCLR and CRCBYTE (R114, R115) -/

section
variable {s : State}

theorem exec_crcclr_idle (he : s.xfc.err = .none) (hf : s.xfc.fsm = .idle) :
    exec .crcclr s = .next (s.update fun x => { x with crc := 0x0000#16 }) :=
  exec_of_effect (by simp [executes, failedCheck, he, hf]) ⟨hf, rfl⟩

theorem exec_crcbyte_idle (b : Byte) (he : s.xfc.err = .none) (hf : s.xfc.fsm = .idle) :
    exec (.crcbyte b) s = .next (s.update fun x => { x with crc := crcByte x.crc b }) :=
  exec_of_effect (by simp [executes, failedCheck, he, hf]) ⟨hf, rfl⟩

end

/-- Settles O22: CRCCLR by its effect in IDLE and by its one check elsewhere. -/
theorem crcclrClearsTheCrc : Obligations.CrcclrClearsTheCrc := by
  unfold Obligations.CrcclrClearsTheCrc
  exact ⟨rfl, fun s he => ⟨exec_crcclr_idle he, fun hf => exec_of_failedCheck he (by simp [failedCheck, hf])⟩⟩

/-- Settles O23: CRCBYTE by its effect in IDLE and by its one check elsewhere; the corner values by evaluation. -/
theorem crcbyteFeedsEightBits : Obligations.CrcbyteFeedsEightBits := by
  unfold Obligations.CrcbyteFeedsEightBits
  refine ⟨fun b => ?_, fun b s he => ⟨exec_crcbyte_idle b he, fun hf => ?_⟩, by decide⟩
  · exact (congrArg decode (commandWord_eq_add 0x21#8 b)).symm.trans (decode_encode (.crcbyte b))
  · exact exec_of_failedCheck he (by simp [failedCheck, hf])

/-! ## The commands that compute a CRC (R116) -/

/-- CRCBYTE for each byte of p folds the byte step over p, from whatever CRC is. -/
theorem runCommands_crcbytes (p : List Byte) {s : State} (he : s.xfc.err = .none) (hf : s.xfc.fsm = .idle) :
    runCommands (p.map .crcbyte) s = .next (s.update fun x => { x with crc := p.foldl crcByte x.crc }) := by
  induction p generalizing s with
  | nil => rfl
  | cons b p ih =>
    rw [List.map_cons, runCommands_cons _ (exec_crcbyte_idle b he hf)]
    exact ih he hf

/-- From CRC = 0 the bytes and RD CRC answer the CRC. -/
theorem runCommands_crcbytes_rd (p : List Byte) {s : State} (he : s.xfc.err = .none) (hf : s.xfc.fsm = .idle)
    (hcrc : s.xfc.crc = 0x0000#16) :
    runCommands (p.map .crcbyte ++ [.rd .crc]) s =
      .next { s with xfc := { s.xfc with crc := crc16 p }, rsp := s.rsp ++ [crc16 p] } := by
  have hfold : crc16 p = p.foldl crcByte s.xfc.crc := by rw [hcrc]; rfl
  rw [runCommands_append _ (runCommands_crcbytes p he hf), hfold]
  rfl

/-- Settles O26: CRCCLR makes CRC 0, from where the bytes and RD CRC answer the CRC. -/
theorem crcCommandsAnswerTheCrc : Obligations.CrcCommandsAnswerTheCrc := by
  unfold Obligations.CrcCommandsAnswerTheCrc
  intro p s he hf
  refine ⟨?_, runCommands_crcbytes_rd p he hf⟩
  rw [runCommands_cons _ (exec_crcclr_idle he hf)]
  exact runCommands_crcbytes_rd p (s := s.update fun x => { x with crc := 0x0000#16 }) he hf rfl

end Sys2Proof.Machine
end

section
/-! PROOF. The family 42_session.md, the four commands of the session registers (R126, R129, R130, R132) and the mode
over a session (R127). -/

namespace Sys2Proof.Machine

/-! ## Words with an operand out of range (R75) -/

/-- Of the words of an assigned op, those from the first arg on that its format does not allow are illegal. -/
theorem decode_error_of_le {op lo : Byte} {fmt : Format} {w : Word} (hfmt : formatOfOp op = some fmt)
    (hlo : fmt.argCount ≤ lo.toNat) (hle : commandWord op lo ≤ w) (hge : w ≤ commandWord op 0xFF#8) :
    ∃ e, decode w = .error e := by
  rw [BitVec.le_def, toNat_commandWord] at hle hge
  have hw : 256 * (opField w).toNat + (argField w).toNat = w.toNat := by
    rw [← toNat_commandWord, commandWord_fields]
  have harg := (argField w).isLt
  obtain rfl : opField w = op := by
    apply BitVec.eq_of_toNat_eq
    rw [BitVec.toNat_ofNat] at hge
    omega
  refine decode_error_of_not_ok fun hok => ?_
  have hlegal : fmt.legalArg (argField w) = true := by
    simpa [RawCommand.wellFormed, rawCommand, hfmt] using decode_ok_iff_wellFormed.mp hok
  have hlt := (fmt.legalArg_iff_lt _).mp hlegal
  omega

/-! ## The commands in IDLE -/

section
variable {s : State}

theorem exec_setmode_idle (m : Mode) (he : s.xfc.err = .none) (hf : s.xfc.fsm = .idle) (hm : s.xfc.modev = false) :
    exec (.setmode m) s = .next (s.update fun x => { x with modev := true, mode := m }) :=
  exec_of_effect (by simp [executes, failedCheck, he, hf, hm]) ⟨hf, hm, rfl⟩

theorem exec_setseq_idle (v : Byte) (he : s.xfc.err = .none) (hf : s.xfc.fsm = .idle) :
    exec (.setseq v) s = .next (s.update fun x => { x with seq := v }) :=
  exec_of_effect (by simp [executes, failedCheck, he, hf]) ⟨hf, rfl⟩

theorem exec_seqnext_idle (he : s.xfc.err = .none) (hf : s.xfc.fsm = .idle) :
    exec .seqnext s = .next (s.update fun x => { x with seq := x.seq + 1#8 }) :=
  exec_of_effect (by simp [executes, failedCheck, he, hf]) ⟨hf, rfl⟩

theorem exec_setpad_idle (v : Byte) (he : s.xfc.err = .none) (hf : s.xfc.fsm = .idle) :
    exec (.setpad v) s = .next (s.update fun x => { x with pad := v }) :=
  exec_of_effect (by simp [executes, failedCheck, he, hf]) ⟨hf, rfl⟩

end

/-- The successor of a sequence number, as R130 writes it. -/
theorem seq_add_one_eq (v : Byte) : v + 1#8 = BitVec.ofNat 8 ((v.toNat + 1) % 256) := by
  apply BitVec.eq_of_toNat_eq
  rw [BitVec.toNat_add, BitVec.toNat_ofNat]
  simp

/-- Settles O28: SETMODE by its effect with no mode chosen and by the check that fails otherwise. -/
theorem setmodeChoosesTheModeOnce : Obligations.SetmodeChoosesTheModeOnce := by
  unfold Obligations.SetmodeChoosesTheModeOnce
  refine ⟨rfl, rfl, fun w => decode_error_of_le (op := 0x30#8) (lo := 0x02#8) (fmt := .f) rfl le_rfl,
    fun m s he => ⟨exec_setmode_idle m he, fun hf hm => ?_, fun hf => ?_⟩⟩
  · exact exec_of_failedCheck he (by simp [failedCheck, hf, hm])
  · exact exec_of_failedCheck he (by simp [failedCheck, hf])

/-- Settles O29: SETSEQ by its effect in IDLE and by its one check elsewhere. -/
theorem setseqWritesTheSequenceNumber : Obligations.SetseqWritesTheSequenceNumber := by
  unfold Obligations.SetseqWritesTheSequenceNumber
  refine ⟨fun v => ?_, fun v s he => ⟨exec_setseq_idle v he, fun hf => ?_⟩⟩
  · exact (congrArg decode (commandWord_eq_add 0x31#8 v)).symm.trans (decode_encode (.setseq v))
  · exact exec_of_failedCheck he (by simp [failedCheck, hf])

/-- Settles O30: SEQNEXT by its effect in IDLE and by its one check elsewhere. -/
theorem seqnextAdvancesModulo256 : Obligations.SeqnextAdvancesModulo256 := by
  unfold Obligations.SeqnextAdvancesModulo256
  refine ⟨rfl, fun s he => ⟨fun hf => ?_, fun hf => exec_of_failedCheck he (by simp [failedCheck, hf])⟩⟩
  rw [← seq_add_one_eq]
  exact exec_seqnext_idle he hf

/-- Settles O31: SETPAD by its effect in IDLE and by its one check elsewhere. -/
theorem setpadWritesThePadByte : Obligations.SetpadWritesThePadByte := by
  unfold Obligations.SetpadWritesThePadByte
  refine ⟨fun v => ?_, fun v s he => ⟨exec_setpad_idle v he, fun hf => ?_⟩⟩
  · exact (congrArg decode (commandWord_eq_add 0x33#8 v)).symm.trans (decode_encode (.setpad v))
  · exact exec_of_failedCheck he (by simp [failedCheck, hf])

/-! ## The mode over a session (R127) -/

/-- A property that every command of a sequence keeps is kept by the sequence. -/
theorem runCommands_keeps {P : State → Prop} {is : List Instr} {s t : State}
    (hstep : ∀ i ∈ is, ∀ u v : State, P u → exec i u = .next v → P v) (hs : P s) (h : runCommands is s = .next t) :
    P t := by
  induction is generalizing s with
  | nil =>
    cases h
    exact hs
  | cons i is ih =>
    obtain ⟨hi, his⟩ := List.forall_mem_cons.mp hstep
    obtain ⟨u, hu⟩ := exec_total i s
    rw [runCommands_cons is hu] at h
    exact ih his (hi s u hs hu) h

section
variable {i : Instr} {s t : State}

/-- The rows of MODEV and MODE in the write map (R43): SETMODE and INIT. -/
theorem mayWrite_modeBits {x : Xfc} (h : mayWrite .modeBits i x = true) : (∃ m, i = .setmode m) ∨ i = .init := by
  cases i with
  | setmode m => exact .inl ⟨m, rfl⟩
  | init => exact .inr rfl
  | _ => simp [mayWrite, mayWrite.mayReject] at h

/-- SETMODE finds a chosen mode locked, and only INIT lets go of it (R126, R127). -/
theorem exec_keeps_chosen_mode (h : exec i s = .next t) (hi : i ≠ .init) (hm : s.xfc.modev = true) :
    t.xfc.modev = true ∧ t.xfc.mode = s.xfc.mode := by
  have hsame : SameItem .modeBits s.xfc t.xfc := by
    by_cases hw : mayWrite .modeBits i s.xfc = true
    · obtain ⟨m, rfl⟩ := (mayWrite_modeBits hw).resolve_right hi
      rcases exec_cases h with ⟨-, -, rfl⟩ | ⟨-, c, -, rfl⟩ | ⟨-, -, hnone, -⟩
      · exact sameItem_refl _ _
      · exact sameItem_set_err _ c (by decide)
      · exact absurd (hm.symm.trans hnone) (by decide)
    · exact writeMapListsEveryWriter .modeBits i s t h (Bool.eq_false_of_not_eq_true hw)
  obtain ⟨hmodev, hmode⟩ := hsame
  exact ⟨hmodev.trans hm, hmode⟩

/-- Without a mode no command opens a frame (R141, R160). -/
theorem effect_keeps_idle (he : Effect i s t) (hf : s.xfc.fsm = .idle) (hm : s.xfc.modev = false) :
    t.xfc.fsm = .idle := by
  cases i with
  | nop | errclr | rd => subst he; exact hf
  | init | abort => subst he; rfl
  | sumclr | sumbyte | crcclr | crcbyte | setseq | seqnext | setpad =>
    obtain ⟨-, rfl⟩ := he
    exact hf
  | setmode =>
    obtain ⟨-, -, rfl⟩ := he
    exact hf
  | txbegin =>
    obtain ⟨-, hm', -⟩ := he
    simp [hm] at hm'
  | txdata | txpad =>
    obtain ⟨hf', -⟩ := he
    simp [hf] at hf'
  | rxbyte => simp [Effect, hf, hm] at he

theorem exec_keeps_idle (h : exec i s = .next t) (hf : s.xfc.fsm = .idle) (hm : s.xfc.modev = false) :
    t.xfc.fsm = .idle := by
  rcases exec_cases h with ⟨-, -, rfl⟩ | ⟨-, c, -, rfl⟩ | ⟨-, he⟩
  · exact hf
  · exact hf
  · exact effect_keeps_idle he hf hm

/-- R39(c) alone: one command keeps it from any state, with a mode or, in IDLE, without. -/
theorem exec_keeps_open_has_mode (h : exec i s = .next t) (hs : s.xfc.fsm ≠ .idle → s.xfc.modev = true) :
    t.xfc.fsm ≠ .idle → t.xfc.modev = true := by
  intro hopen
  cases hm : s.xfc.modev with
  | true =>
    have hi : i ≠ .init := by
      rintro rfl
      cases h
      exact hopen rfl
    exact (exec_keeps_chosen_mode h hi hm).1
  | false =>
    have hf : s.xfc.fsm = .idle := by
      by_contra hf
      exact Bool.false_ne_true (hm.symm.trans (hs hf))
    exact absurd (exec_keeps_idle h hf hm) hopen

end

/-- Settles O32: both properties, kept by each command, along the sequence. -/
theorem modeIsFixedForTheSession : Obligations.ModeIsFixedForTheSession := by
  unfold Obligations.ModeIsFixedForTheSession
  refine ⟨fun is s t hinit hm h => ?_, fun is s t hs h => ?_⟩
  · refine runCommands_keeps (P := fun u => u.xfc.modev = true ∧ u.xfc.mode = s.xfc.mode) ?_ ⟨hm, rfl⟩ h
    rintro i hi u v ⟨hum, hmode⟩ hv
    obtain ⟨hvm, hvmode⟩ := exec_keeps_chosen_mode hv (ne_of_mem_of_not_mem hi hinit) hum
    exact ⟨hvm, hvmode.trans hmode⟩
  · exact runCommands_keeps (P := fun u => u.xfc.fsm ≠ .idle → u.xfc.modev = true)
      (fun i _ u v hu hv => exec_keeps_open_has_mode hv hu) hs h

end Sys2Proof.Machine
end

section
/-! PROOF. The family 42_session.md, numbered frames (R131): what the transmit commands of one frame emit and leave
(R146), and frames sent one after the other with SEQNEXT after each. -/

namespace Sys2Proof.Machine

/-! ## Payload bytes of a transmit frame -/

/-- tx_put for each byte in order (R142). -/
def txPutAll (p : List Byte) (s : State) : State := p.foldl (fun s b => txPut b s) s

theorem txPutAll_append (p q : List Byte) (s : State) : txPutAll (p ++ q) s = txPutAll q (txPutAll p s) :=
  List.foldl_append

theorem txPutAll_replicate (n : Nat) (b : Byte) (s : State) : txPutAll (List.replicate n b) s = txPutMany n b s := by
  induction n generalizing s with
  | zero => rfl
  | succ n ih => exact ih (txPut b s)

/-- Payload bytes in a row: each is emitted, accumulated and counted, and nothing else changes (R142). -/
theorem txPutAll_eq (p : List Byte) (s : State) :
    txPutAll p s =
      { s with
        xfc := { s.xfc with
          sum := p.foldl sumStep s.xfc.sum
          crc := p.foldl crcByte s.xfc.crc
          cnt := s.xfc.cnt + BitVec.ofNat 11 p.length }
        tx := s.tx ++ p } := by
  induction p generalizing s with
  | nil => simp [txPutAll]
  | cons b p ih =>
    have hcons : txPutAll (b :: p) s = txPutAll p (txPut b s) := rfl
    rw [hcons, ih, txPut_eq]
    simp [countByte, BitVec.ofNat_add, BitVec.add_assoc, BitVec.add_comm (1#11)]

section
variable (p : List Byte) (s : State)

@[simp] theorem txPutAll_err : (txPutAll p s).xfc.err = s.xfc.err := by rw [txPutAll_eq]
@[simp] theorem txPutAll_fsm : (txPutAll p s).xfc.fsm = s.xfc.fsm := by rw [txPutAll_eq]
@[simp] theorem txPutAll_blk : (txPutAll p s).xfc.blk = s.xfc.blk := by rw [txPutAll_eq]
@[simp] theorem txPutAll_pad : (txPutAll p s).xfc.pad = s.xfc.pad := by rw [txPutAll_eq]

end

theorem toNat_cnt_txPutAll {s : State} {p : List Byte} (h : s.xfc.cnt.toNat + p.length ≤ size s.xfc.blk) :
    (txPutAll p s).xfc.cnt.toNat = s.xfc.cnt.toNat + p.length := by
  rw [txPutAll_eq]
  exact toNat_cnt_add h

/-! ## TXDATA and TXPAD in an open transmit frame -/

section
variable {s : State} {p : List Byte}

/-- TXDATA before the last byte of the block (R143). -/
theorem exec_txdata_more (b : Byte) (he : s.xfc.err = .none) (hf : s.xfc.fsm = .txpayload)
    (hlt : s.xfc.cnt.toNat + 1 < size s.xfc.blk) : exec (.txdata b) s = .next (txPut b s) := by
  have hcnt : (txPut b s).xfc.cnt.toNat = s.xfc.cnt.toNat + 1 := toNat_cnt_add hlt.le
  rw [exec_txdata_txpayload b he hf, if_neg (mt payloadDone_iff.mp (hcnt.trans_lt hlt).ne)]

/-- TXDATA of the last byte of the block (R143). -/
theorem exec_txdata_last (b : Byte) (he : s.xfc.err = .none) (hf : s.xfc.fsm = .txpayload)
    (hlast : s.xfc.cnt.toNat + 1 = size s.xfc.blk) : exec (.txdata b) s = .next (txClose (txPut b s)) := by
  have hcnt : (txPut b s).xfc.cnt.toNat = s.xfc.cnt.toNat + 1 := toNat_cnt_add hlast.le
  rw [exec_txdata_txpayload b he hf, if_pos (payloadDone_iff.mpr (hcnt.trans hlast))]

/-- TXDATA for bytes that do not fill the block. -/
theorem runCommands_txdata_more (he : s.xfc.err = .none) (hf : s.xfc.fsm = .txpayload)
    (hlt : s.xfc.cnt.toNat + p.length < size s.xfc.blk) : runCommands (p.map .txdata) s = .next (txPutAll p s) := by
  induction p using List.reverseRecOn with
  | nil => rfl
  | append_singleton p b ih =>
    rw [List.length_append, List.length_singleton, ← add_assoc] at hlt
    have hcnt := toNat_cnt_txPutAll (s := s) (p := p) (by omega)
    rw [List.map_append, runCommands_append _ (ih (by omega)), txPutAll_append]
    exact runCommands_cons [] (exec_txdata_more b (by simp [he]) (by simp [hf]) (by simpa [hcnt] using hlt))

/-- TXDATA for bytes that fill the block: the last one closes the frame. -/
theorem runCommands_txdata_fill (he : s.xfc.err = .none) (hf : s.xfc.fsm = .txpayload) (hne : p ≠ [])
    (hfill : s.xfc.cnt.toNat + p.length = size s.xfc.blk) :
    runCommands (p.map .txdata) s = .next (txClose (txPutAll p s)) := by
  obtain ⟨p, b, rfl⟩ := (List.eq_nil_or_concat' p).resolve_left hne
  rw [List.length_append, List.length_singleton, ← add_assoc] at hfill
  have hcnt := toNat_cnt_txPutAll (s := s) (p := p) (by omega)
  rw [List.map_append, runCommands_append _ (runCommands_txdata_more he hf (by omega)), txPutAll_append]
  exact runCommands_cons [] (exec_txdata_last b (by simp [he]) (by simp [hf]) (by simpa [hcnt] using hfill))

/-- TXDATA for bytes that do not fill the block, then TXPAD: the block is filled with PAD and the frame closed (R145). -/
theorem runCommands_txdata_txpad (he : s.xfc.err = .none) (hf : s.xfc.fsm = .txpayload)
    (hlt : s.xfc.cnt.toNat + p.length < size s.xfc.blk) :
    runCommands (p.map .txdata ++ [.txpad]) s = .next (txClose (txPutAll
      (p ++ List.replicate (size s.xfc.blk - (s.xfc.cnt.toNat + p.length)) s.xfc.pad) s)) := by
  rw [runCommands_append _ (runCommands_txdata_more he hf hlt), txPutAll_append, txPutAll_replicate,
    ← toNat_cnt_txPutAll hlt.le]
  have hpad := exec_txpad_txpayload (s := txPutAll p s) (by simp [he]) (by simp [hf])
  rw [txPutAll_blk, txPutAll_pad] at hpad
  exact runCommands_cons [] hpad

end

/-! ## One whole frame (R146) -/

/-- The payload a frame carries for the bytes p: filled up to a whole block with the pad byte (R146). -/
def blockPayload (k : BlockKind) (p : List Byte) (pad : Byte) : List Byte :=
  p ++ List.replicate (size k - p.length) pad

theorem length_blockPayload {k : BlockKind} {p : List Byte} (h : p.length ≤ size k) (pad : Byte) :
    (blockPayload k p pad).length = size k := by
  rw [blockPayload, List.length_append, List.length_replicate, Nat.add_sub_of_le h]

theorem trailerBytes_eq {x : Xfc} {q : List Byte} (hsum : x.sum = checksum q) (hcrc : x.crc = crc16 q) :
    trailerBytes x = frameTrailer x.mode q := by
  rw [trailerBytes, hsum, hcrc]
  rfl

/-- A transmit frame just opened: what TXBEGIN leaves (R141). -/
def txOpened (k : BlockKind) (s : State) : State :=
  (s.emitTx [hdr k, s.xfc.seq, complement s.xfc.seq]).update fun x => { openFrame k x with fsm := .txpayload }

section
variable {s : State}

theorem exec_txbegin_idle (k : BlockKind) (he : s.xfc.err = .none) (hf : s.xfc.fsm = .idle)
    (hm : s.xfc.modev = true) : exec (.txbegin k) s = .next (txOpened k s) :=
  exec_of_effect (by simp [executes, failedCheck, he, hf, hm]) ⟨hf, hm, rfl⟩

/-- The commands after TXBEGIN send a whole block and close the frame. -/
theorem runCommands_block {p : List Byte} (he : s.xfc.err = .none) (hf : s.xfc.fsm = .txpayload)
    (hcnt : s.xfc.cnt = 0#11) (hlen : p.length ≤ size s.xfc.blk) :
    runCommands (p.map .txdata ++ if p.length < size s.xfc.blk then [.txpad] else []) s =
      .next (txClose (txPutAll (blockPayload s.xfc.blk p s.xfc.pad) s)) := by
  have hzero : s.xfc.cnt.toNat + p.length = p.length := by simp [hcnt]
  rcases hlen.lt_or_eq with hlt | hfull
  · rw [if_pos hlt, runCommands_txdata_txpad he hf (hzero.trans_lt hlt), hzero, blockPayload]
  · have hne : p ≠ [] := List.ne_nil_of_length_pos (hfull ▸ size_pos _)
    rw [if_neg hfull.not_lt, List.append_nil, runCommands_txdata_fill he hf hne (hzero.trans hfull), blockPayload,
      hfull, Nat.sub_self, List.replicate_zero, List.append_nil]

/-- A whole block put into a frame just opened, and the frame closed (R146). -/
theorem txClose_txPutAll_txOpened {k : BlockKind} {q : List Byte} (hq : q.length = size k) :
    txClose (txPutAll q (txOpened k s)) =
      { s with
        xfc := { s.xfc with
          fsm := .idle, cnt := BitVec.ofNat 11 (size k), blk := k, sum := checksum q, crc := crc16 q }
        tx := s.tx ++ ([hdr k, s.xfc.seq, complement s.xfc.seq] ++ q ++ frameTrailer s.xfc.mode q) } := by
  have hsum : (txPutAll q (txOpened k s)).xfc.sum = checksum q := by
    rw [txPutAll_eq, checksum_eq_foldl]
    rfl
  have hcrc : (txPutAll q (txOpened k s)).xfc.crc = crc16 q := by
    rw [txPutAll_eq]
    rfl
  rw [txClose_eq, trailerBytes_eq hsum hcrc, txPutAll_eq, checksum_eq_foldl, hq]
  simp [txOpened, State.emitTx, State.update, openFrame, crc16, Config.crcInitial]

/-- The commands of one frame emit the encoded frame of the padded payload, and what they leave (R146). -/
theorem runCommands_txFrameCommands {k : BlockKind} {p : List Byte} (he : s.xfc.err = .none)
    (hf : s.xfc.fsm = .idle) (hm : s.xfc.modev = true) (hlen : p.length ≤ size k) :
    ∃ f, encodeFrame s.xfc.seq (blockPayload k p s.xfc.pad) s.xfc.mode = some f ∧
      runCommands (txFrameCommands k p) s = .next
        { s with
          xfc := { s.xfc with
            fsm := .idle
            cnt := BitVec.ofNat 11 (size k)
            blk := k
            sum := checksum (blockPayload k p s.xfc.pad)
            crc := crc16 (blockPayload k p s.xfc.pad) }
          tx := s.tx ++ f } := by
  have hq := length_blockPayload hlen s.xfc.pad
  have hblock := runCommands_block (s := txOpened k s) he rfl rfl hlen
  refine ⟨_, encodeFrame_eq_some.mpr ⟨k, hq, rfl⟩, ?_⟩
  rw [txFrameCommands, List.cons_append, runCommands_cons _ (exec_txbegin_idle k he hf hm),
    ← txClose_txPutAll_txOpened hq]
  exact hblock

end

/-! ## Frames in a row (R131) -/

/-- Between frames: nothing is rejected, no frame is open, a mode is chosen. -/
structure ReadyToSend (s : State) : Prop where
  clear : s.xfc.err = .none
  idle : s.xfc.fsm = .idle
  mode : s.xfc.modev = true

/-- The sequence number of the frame with n frames before it. -/
def frameNumber (n : Nat) : Byte := BitVec.ofNat 8 ((n + 1) % 256)

theorem frameNumber_add_one (n : Nat) : frameNumber n + 1#8 = frameNumber (n + 1) := by
  rw [seq_add_one_eq, frameNumber, frameNumber, BitVec.toNat_ofNat]
  simp

/-- What is sent for the block p, the n-th counted from 0. -/
def numberedFrame (pad : Byte) (mode : Mode) (fn : (BlockKind × List Byte) × Nat) : List Byte :=
  (encodeFrame (frameNumber fn.2) (blockPayload fn.1.1 fn.1.2 pad) mode).getD []

/-- One frame and SEQNEXT: ready for the next one. -/
theorem runCommands_numberedFrame {s : State} {f : BlockKind × List Byte} {n : Nat} (h : ReadyToSend s)
    (hseq : s.xfc.seq = frameNumber n) (hlen : f.2.length ≤ size f.1) :
    ∃ t, runCommands (txFrameCommands f.1 f.2 ++ [.seqnext]) s = .next t ∧ ReadyToSend t ∧
      t.xfc.seq = frameNumber (n + 1) ∧ t.xfc.pad = s.xfc.pad ∧ t.xfc.mode = s.xfc.mode ∧
      t.tx = s.tx ++ numberedFrame s.xfc.pad s.xfc.mode (f, n) := by
  obtain ⟨out, hout, hrun⟩ := runCommands_txFrameCommands h.clear h.idle h.mode hlen
  have hframe : numberedFrame s.xfc.pad s.xfc.mode (f, n) = out := by
    rw [numberedFrame, ← hseq, hout, Option.getD_some]
  rw [runCommands_append _ hrun, hframe]
  refine ⟨_, runCommands_cons [] (exec_seqnext_idle h.clear rfl), ⟨h.clear, rfl, h.mode⟩, ?_, rfl, rfl, rfl⟩
  rw [← frameNumber_add_one, ← hseq]
  rfl

/-- Frames from the n-th on. -/
theorem runCommands_numberedFrames {s : State} {frames : List (BlockKind × List Byte)} {n : Nat} (h : ReadyToSend s)
    (hseq : s.xfc.seq = frameNumber n) (hlen : ∀ f ∈ frames, f.2.length ≤ size f.1) :
    ∃ t, runCommands (frames.flatMap fun f => txFrameCommands f.1 f.2 ++ [.seqnext]) s = .next t ∧
      t.xfc.seq = frameNumber (n + frames.length) ∧
      t.tx = s.tx ++ (frames.zipIdx n).flatMap (numberedFrame s.xfc.pad s.xfc.mode) := by
  induction frames generalizing s n with
  | nil => exact ⟨s, rfl, hseq, (List.append_nil _).symm⟩
  | cons f frames ih =>
    obtain ⟨hf, hrest⟩ := List.forall_mem_cons.mp hlen
    obtain ⟨u, hu, hready, huseq, hpad, hmode, hutx⟩ := runCommands_numberedFrame h hseq hf
    obtain ⟨t, ht, htseq, httx⟩ := ih hready huseq hrest
    refine ⟨t, ?_, ?_, ?_⟩
    · rw [List.flatMap_cons, runCommands_append _ hu, ht]
    · rw [htseq, List.length_cons, Nat.add_right_comm, Nat.add_assoc]
    · rw [httx, hutx, hpad, hmode, List.zipIdx_cons, List.flatMap_cons, List.append_assoc]

/-- Settles O40: the frames from the first on, which finds SEQ = 1. -/
theorem successiveFramesAreNumberedModulo256 : Obligations.SuccessiveFramesAreNumberedModulo256 := by
  unfold Obligations.SuccessiveFramesAreNumberedModulo256
  intro frames s he hf hm hseq hlen
  obtain ⟨t, ht, htseq, httx⟩ := runCommands_numberedFrames (n := 0) ⟨he, hf, hm⟩ hseq hlen
  rw [Nat.zero_add] at htseq
  exact ⟨t, ht, htseq, httx⟩

end Sys2Proof.Machine
end

section
/-! PROOF. The family 43_tx_framer.md: TXBEGIN, TXDATA and TXPAD one by one (R141, R143, R145), TXPAD as the remaining
TXDATA PAD (R145), and the commands of a whole frame (R146). -/

namespace Sys2Proof.Machine

/-! ## TXBEGIN and TXDATA (R141, R143) -/

/-- Settles O33: TXBEGIN by the frame it opens in IDLE with a mode, and by the check that fails otherwise. -/
theorem txbeginOpensAFrame : Obligations.TxbeginOpensAFrame := by
  unfold Obligations.TxbeginOpensAFrame
  refine ⟨rfl, rfl, fun w => decode_error_of_le (op := 0x40#8) (lo := 0x02#8) (fmt := .f) rfl le_rfl,
    fun k s he => ⟨exec_txbegin_idle k he, fun hf hm => ?_, fun hf => ?_⟩⟩
  · exact exec_of_failedCheck he (by simp [failedCheck, hf, hm])
  · exact exec_of_failedCheck he (by simp [failedCheck, hf])

/-- Settles O34: TXDATA before the last byte, on the last byte, and by its one check elsewhere. -/
theorem txdataEmitsAByteAndTheTrailerAfterTheLast : Obligations.TxdataEmitsAByteAndTheTrailerAfterTheLast := by
  unfold Obligations.TxdataEmitsAByteAndTheTrailerAfterTheLast
  refine ⟨fun b => ?_, fun b s he => ⟨exec_txdata_more b he, exec_txdata_last b he, fun hf => ?_⟩⟩
  · exact (congrArg decode (commandWord_eq_add 0x41#8 b)).symm.trans (decode_encode (.txdata b))
  · exact exec_of_failedCheck he (by simp [failedCheck, hf])

/-! ## TXPAD (R145) -/

/-- The bytes TXPAD fills the block of an open frame with. -/
def padBytes (x : Xfc) : List Byte := List.replicate (size x.blk - x.cnt.toNat) x.pad

theorem cnt_add_length_padBytes {x : Xfc} (h : x.cnt.toNat ≤ size x.blk) :
    x.cnt.toNat + (padBytes x).length = size x.blk := by
  rw [padBytes, List.length_replicate, Nat.add_sub_of_le h]

theorem padBytes_ne_nil {x : Xfc} (h : x.cnt.toNat < size x.blk) : padBytes x ≠ [] :=
  mt (List.replicate_eq_nil_iff _).mp (Nat.sub_ne_zero_of_lt h)

/-- CNT after payload bytes that fill the block. -/
theorem cnt_add_eq_size {x : Xfc} {n : Nat} (h : x.cnt.toNat + n = size x.blk) :
    x.cnt + BitVec.ofNat 11 n = BitVec.ofNat 11 (size x.blk) := by
  rw [← h, BitVec.ofNat_add, BitVec.ofNat_toNat, BitVec.setWidth_eq]

/-- TXPAD puts its bytes as payload bytes in a row and closes the frame. -/
theorem exec_txpad_padBytes {s : State} (he : s.xfc.err = .none) (hf : s.xfc.fsm = .txpayload) :
    exec .txpad s = .next (txClose (txPutAll (padBytes s.xfc) s)) := by
  rw [padBytes, txPutAll_replicate]
  exact exec_txpad_txpayload he hf

/-- Settles O35: TXPAD and the TXDATA PAD put the same bytes, the last of which fills the block and closes the
frame. -/
theorem txpadEqualsTheRemainingTxdataOfPad : Obligations.TxpadEqualsTheRemainingTxdataOfPad := by
  unfold Obligations.TxpadEqualsTheRemainingTxdataOfPad
  refine ⟨rfl, fun s he => ⟨fun hf hlt => ?_, fun hf => exec_of_failedCheck he (by simp [failedCheck, hf])⟩⟩
  have hpad := exec_txpad_padBytes he hf
  have hfill := cnt_add_length_padBytes hlt.le
  have hdata := runCommands_txdata_fill he hf (padBytes_ne_nil hlt) hfill
  rw [padBytes, List.map_replicate] at hdata
  exact ⟨hpad.trans hdata.symm, _, hpad, rfl, (toNat_cnt_txPutAll hfill.le).trans hfill⟩

/-- Settles O36: the closed form of payload bytes in a row (R142), for the bytes of TXPAD. -/
theorem txpadFillsEmitsTheTrailerAndCloses : Obligations.TxpadFillsEmitsTheTrailerAndCloses := by
  unfold Obligations.TxpadFillsEmitsTheTrailerAndCloses
  intro s he hf hlt
  rw [exec_txpad_padBytes he hf, txClose_eq, txPutAll_eq, foldl_sumStep,
    cnt_add_eq_size (cnt_add_length_padBytes hlt.le)]
  rfl

/-! ## The commands of a frame (R146) -/

/-- Settles O39: the commands written out are those of TXFRAME, and the padded payload is the block they send. -/
theorem transmitCommandsEmitTheEncodedFrame : Obligations.TransmitCommandsEmitTheEncodedFrame := by
  unfold Obligations.TransmitCommandsEmitTheEncodedFrame
  intro k p s
  exact runCommands_txFrameCommands

end Sys2Proof.Machine
end

section
/-! PROOF. The family 44_rx_validator.md, RXBYTE state by state: opening a frame (R161, R162), the held bytes (R163,
R164, R167), one payload byte (R165) and the verdict (R166, R168, R169). -/

namespace Sys2Proof.Machine

/-! ## RXBYTE in each framer state (R160) -/

section
variable {s : State} (b : Byte)

theorem exec_rxbyte_idle (he : s.xfc.err = .none) (hf : s.xfc.fsm = .idle) (hm : s.xfc.modev = true) :
    exec (.rxbyte b) s = .next (rxIdle b s) :=
  exec_of_effect (by simp [executes, failedCheck, he, hf, hm]) (.inl ⟨hf, hm, rfl⟩)

theorem exec_rxbyte_rxseq (he : s.xfc.err = .none) (hf : s.xfc.fsm = .rxseq) :
    exec (.rxbyte b) s = .next (rxSequence b s) :=
  exec_of_effect (by simp [executes, failedCheck, he, hf]) (.inr (.inl ⟨hf, rfl⟩))

theorem exec_rxbyte_rxcmpl (he : s.xfc.err = .none) (hf : s.xfc.fsm = .rxcmpl) :
    exec (.rxbyte b) s = .next (rxComplement b s) :=
  exec_of_effect (by simp [executes, failedCheck, he, hf]) (.inr (.inr (.inl ⟨hf, rfl⟩)))

theorem exec_rxbyte_rxtrl1 (he : s.xfc.err = .none) (hf : s.xfc.fsm = .rxtrl1) :
    exec (.rxbyte b) s = .next (rxTrailer1 b s) :=
  exec_of_effect (by simp [executes, failedCheck, he, hf]) (.inr (.inr (.inr (.inr (.inl ⟨hf, rfl⟩)))))

theorem exec_rxbyte_rxtrl2 (he : s.xfc.err = .none) (hf : s.xfc.fsm = .rxtrl2) :
    exec (.rxbyte b) s = .next (rxTrailer2 b s) :=
  exec_of_effect (by simp [executes, failedCheck, he, hf]) (.inr (.inr (.inr (.inr (.inr ⟨hf, rfl⟩)))))

end

section
variable {s : State} {b : Byte}

/-- A header byte in IDLE opens a receive frame (R161). -/
theorem exec_rxbyte_header {k : BlockKind} (hb : headerKind b = some k) (he : s.xfc.err = .none)
    (hf : s.xfc.fsm = .idle) (hm : s.xfc.modev = true) :
    exec (.rxbyte b) s = .next (s.update fun x => { openFrame k x with rxres := .none, fsm := .rxseq }) := by
  rw [exec_rxbyte_idle b he hf hm, rxIdle_header hb]

/-- Any other byte in IDLE is reported (R162). -/
theorem exec_rxbyte_noHeader (hb : headerKind b = none) (he : s.xfc.err = .none) (hf : s.xfc.fsm = .idle)
    (hm : s.xfc.modev = true) : exec (.rxbyte b) s = .next (s.update fun x => { x with rxres := .nohdr }) := by
  rw [exec_rxbyte_idle b he hf hm, rxIdle_noHeader hb]

/-- The high CRC byte is held (R167). -/
theorem exec_rxbyte_rxtrl1_crc16 (he : s.xfc.err = .none) (hf : s.xfc.fsm = .rxtrl1) (hmode : s.xfc.mode = .crc16) :
    exec (.rxbyte b) s = .next (s.update fun x => { x with rth := b, fsm := .rxtrl2 }) := by
  rw [exec_rxbyte_rxtrl1 b he hf, rxTrailer1_crc16 b hmode]

/-- The checksum byte gives the verdict (R166). -/
theorem exec_rxbyte_rxtrl1_checksum (he : s.xfc.err = .none) (hf : s.xfc.fsm = .rxtrl1)
    (hmode : s.xfc.mode = .checksum) : exec (.rxbyte b) s = .next (verdict (b == s.xfc.sum) s) := by
  rw [exec_rxbyte_rxtrl1 b he hf, rxTrailer1_checksum b hmode]

end

theorem headerKind_eq_none {b : Byte} (hsoh : b ≠ 0x01#8) (hstx : b ≠ 0x02#8) : headerKind b = none := by
  rw [headerKind, Config.soh, Config.stx, if_neg hsoh, if_neg hstx]

/-- Settles O41: in TXPAYLOAD and with no mode by the check that fails, in IDLE with a mode by the header byte. -/
theorem rxbyteOpensAFrameOrReportsNoHeader : Obligations.RxbyteOpensAFrameOrReportsNoHeader := by
  unfold Obligations.RxbyteOpensAFrameOrReportsNoHeader
  refine ⟨fun b => ?_, fun b s he => ⟨fun hf => ?_, fun hf hm => ?_, fun hf hm hb => ?_, fun hf hm hb => ?_,
    fun hf hm hsoh hstx => exec_rxbyte_noHeader (headerKind_eq_none hsoh hstx) he hf hm⟩⟩
  · exact (congrArg decode (commandWord_eq_add 0x50#8 b)).symm.trans (decode_encode (.rxbyte b))
  · exact exec_of_failedCheck he (by simp [failedCheck, hf])
  · exact exec_of_failedCheck he (by simp [failedCheck, hf, hm])
  · exact exec_rxbyte_header (headerKind_eq_some.mpr hb) he hf hm
  · exact exec_rxbyte_header (headerKind_eq_some.mpr hb) he hf hm

/-- Settles O42: each byte that is only held, by the effect in its framer state. -/
theorem rxbyteHoldsSequenceComplementAndHighCrcByte : Obligations.RxbyteHoldsSequenceComplementAndHighCrcByte := by
  unfold Obligations.RxbyteHoldsSequenceComplementAndHighCrcByte
  exact fun b s he => ⟨exec_rxbyte_rxseq b he, exec_rxbyte_rxcmpl b he, exec_rxbyte_rxtrl1_crc16 he⟩

/-- Settles O43: the memory after the store, read at CNT and elsewhere; the rest by the effect of a payload byte. -/
theorem rxbyteStoresAPayloadByte : Obligations.RxbyteStoresAPayloadByte := by
  unfold Obligations.RxbyteStoresAPayloadByte
  intro b s he hf hcnt
  refine ⟨s.xfc.buf.write s.xfc.cnt.toNat b, read_write_same _ _ _, fun a ha => read_write_other _ b ha, ?_⟩
  rw [exec_rxbyte_rxpayload b he hf, rxPayload_eq, bufAddress_of_lt hcnt, hf]
  rfl

/-! ## The verdict (R169) -/

section
variable {ok : Bool} {s : State}

/-- A verdict other than OK writes RXRES and FSM and emits nothing. -/
theorem verdict_of_ne_ok {c : RxRes} (hc : verdictCode ok s.xfc = c) (hne : c ≠ .ok) :
    verdict ok s = { s with xfc := { s.xfc with rxres := c, fsm := .idle } } := by
  rw [verdict_eq, hc, if_neg hne, List.append_nil]

/-- The verdict OK releases the payload. -/
theorem verdict_of_ok (hc : verdictCode ok s.xfc = .ok) :
    verdict ok s = { s with
      xfc := { s.xfc with rxres := .ok, fsm := .idle }
      rx := s.rx ++ s.xfc.buf.readFirst (size s.xfc.blk) } := by
  rw [verdict_eq, hc, if_pos rfl]

end

section
variable {ok : Bool} {x : Xfc}

theorem verdictCode_badcmpl (hcmpl : x.rseq.toNat + x.rcmp.toNat ≠ 0xFF) : verdictCode ok x = .badcmpl :=
  if_pos hcmpl

theorem verdictCode_badseq (hcmpl : x.rseq.toNat + x.rcmp.toNat = 0xFF) (hseq : x.rseq ≠ x.seq) :
    verdictCode ok x = .badseq := by
  rw [verdictCode, if_neg (not_not.mpr hcmpl), if_pos hseq]

theorem verdictCode_badtrl (hcmpl : x.rseq.toNat + x.rcmp.toNat = 0xFF) (hseq : x.rseq = x.seq) :
    verdictCode false x = .badtrl := by
  rw [verdictCode, if_neg (not_not.mpr hcmpl), if_neg (not_not.mpr hseq), if_pos rfl]

end

theorem toNat_joinBytes (h l : Byte) : (joinBytes h l).toNat = 256 * h.toNat + l.toNat := toNat_commandWord h l

theorem joinBytes_beq_iff (h l : Byte) (w : Word) :
    (joinBytes h l == w) = true ↔ 256 * h.toNat + l.toNat = w.toNat := by
  rw [beq_iff_eq, ← BitVec.toNat_inj, toNat_joinBytes]

/-- The byte that ends a frame gives the verdict on its trailer check (R166, R168). -/
theorem exec_rxbyte_ends_frame {b : Byte} {s : State} {trailerOk : Prop} (he : s.xfc.err = .none)
    (hend : (s.xfc.fsm = .rxtrl1 ∧ s.xfc.mode = .checksum ∧ (trailerOk ↔ b = s.xfc.sum)) ∨
      (s.xfc.fsm = .rxtrl2 ∧ (trailerOk ↔ 256 * s.xfc.rth.toNat + b.toNat = s.xfc.crc.toNat))) :
    ∃ ok, (ok = true ↔ trailerOk) ∧ exec (.rxbyte b) s = .next (verdict ok s) := by
  rcases hend with ⟨hf, hmode, htrl⟩ | ⟨hf, htrl⟩
  · exact ⟨_, beq_iff_eq.trans htrl.symm, exec_rxbyte_rxtrl1_checksum he hf hmode⟩
  · exact ⟨_, (joinBytes_beq_iff _ _ _).trans htrl.symm, exec_rxbyte_rxtrl2 b he hf⟩

/-- Settles O45: the verdict by its code, which the first failing check gives. -/
theorem verdictChecksComplementSequenceTrailer : Obligations.VerdictChecksComplementSequenceTrailer := by
  unfold Obligations.VerdictChecksComplementSequenceTrailer
  intro b s trailerOk he hend
  obtain ⟨ok, hok, hexec⟩ := exec_rxbyte_ends_frame he hend
  rw [hexec]
  refine ⟨fun hcmpl => ?_, fun hcmpl hseq => ?_, fun hcmpl hseq htrl => ?_, fun hcmpl hseq htrl => ?_⟩
  · rw [verdict_of_ne_ok (verdictCode_badcmpl hcmpl) (by decide)]
  · rw [verdict_of_ne_ok (verdictCode_badseq hcmpl hseq) (by decide)]
  · obtain rfl : ok = false := Bool.eq_false_of_not_eq_true (mt hok.mp htrl)
    rw [verdict_of_ne_ok (verdictCode_badtrl hcmpl hseq) (by decide)]
  · rw [verdict_of_ok (verdictCode_ok.mpr ⟨hcmpl, hseq, hok.mpr htrl⟩)]
    rfl

end Sys2Proof.Machine
end

section
/-! PROOF. The family 44_rx_validator.md, whole frames: what a receive frame leaves while its payload comes in (R165),
its trailer and verdict (R166 to R169), decode_and_validate (R170, R171) and the round trip (R172). -/

namespace Sys2Proof.Machine

/-! ## A payload stored byte by byte (R52) -/

/-- The memory after the bytes of p are stored at the addresses from 0 on. -/
def storeFirst (p : List Byte) (m : Memory) : Memory := p.zipIdx.foldl (fun m c => m.write c.2 c.1) m

theorem storeFirst_append (p : List Byte) (b : Byte) (m : Memory) :
    storeFirst (p ++ [b]) m = (storeFirst p m).write p.length b := by
  simp [storeFirst, List.zipIdx_append]

/-- What is stored is what an OK verdict reads (R53). -/
theorem readFirst_storeFirst (p : List Byte) (m : Memory) : (storeFirst p m).readFirst p.length = p := by
  induction p using List.reverseRecOn with
  | nil => rfl
  | append_singleton p b ih =>
    rw [storeFirst_append, List.length_append, List.length_singleton, readFirst_write, ih]

/-! ## Header, sequence, complement and payload bytes (R161 to R165) -/

/-- A receive frame of which the first three bytes and the payload bytes p have been taken. -/
def rxTaken (k : BlockKind) (seq cmpl : Byte) (p : List Byte) (s : State) : State :=
  s.update fun x => { x with
    sum := checksum p
    crc := crc16 p
    blk := k
    cnt := BitVec.ofNat 11 p.length
    fsm := if p.length = size k then .rxtrl1 else .rxpayload
    rxres := .none
    rseq := seq
    rcmp := cmpl
    buf := storeFirst p x.buf }

theorem toNat_ofNat_count {n : Nat} {k : BlockKind} (h : n ≤ size k) : (BitVec.ofNat 11 n).toNat = n := by
  have hsize := size_le k
  rw [BitVec.toNat_ofNat]
  omega

section
variable {k : BlockKind} {seq cmpl : Byte} {p : List Byte} {s : State}

theorem runCommands_rxHead (he : s.xfc.err = .none) (hf : s.xfc.fsm = .idle) (hm : s.xfc.modev = true) :
    runCommands ([hdr k, seq, cmpl].map .rxbyte) s = .next (rxTaken k seq cmpl [] s) := by
  have htaken : rxTaken k seq cmpl [] s = s.update fun x =>
      { openFrame k x with rxres := .none, rseq := seq, rcmp := cmpl, fsm := .rxpayload } := by
    have hpos : ([] : List Byte).length ≠ size k := (size_pos k).ne
    rw [rxTaken, if_neg hpos]
    rfl
  calc runCommands ([hdr k, seq, cmpl].map .rxbyte) s
      = runCommands ([seq, cmpl].map .rxbyte) _ := runCommands_cons _ (exec_rxbyte_header (headerKind_hdr k) he hf hm)
    _ = runCommands ([cmpl].map .rxbyte) _ := runCommands_cons _ (exec_rxbyte_rxseq seq he rfl)
    _ = .next _ := runCommands_cons _ (exec_rxbyte_rxcmpl cmpl he rfl)
    _ = .next (rxTaken k seq cmpl [] s) := by rw [htaken]; rfl

/-- One payload byte more (R165). -/
theorem exec_rxbyte_rxTaken (b : Byte) (he : s.xfc.err = .none) (hlt : p.length < size k) :
    exec (.rxbyte b) (rxTaken k seq cmpl p s) = .next (rxTaken k seq cmpl (p ++ [b]) s) := by
  have hf : (rxTaken k seq cmpl p s).xfc.fsm = .rxpayload := if_neg hlt.ne
  have hcnt : (rxTaken k seq cmpl p s).xfc.cnt.toNat = p.length := toNat_ofNat_count hlt.le
  have hnext : ((rxTaken k seq cmpl p s).xfc.cnt + 1#11).toNat = p.length + 1 := by
    rw [← hcnt]
    exact toNat_cnt_add (n := 1) (hcnt ▸ hlt)
  have haddr : bufAddress (rxTaken k seq cmpl p s).xfc.cnt = p.length :=
    (bufAddress_of_lt (hcnt.trans_lt (hlt.trans_le (size_le k)))).trans hcnt
  rw [exec_rxbyte_rxpayload (s := rxTaken k seq cmpl p s) b he hf, rxPayload_eq, haddr, hnext, hf]
  simp only [rxTaken, List.length_append, List.length_singleton, checksum_append, crc16_append, storeFirst_append,
    BitVec.ofNat_add]
  rfl

/-- The bytes of a frame up to its trailer, by induction on the payload from its last byte. -/
theorem runCommands_rxTaken (he : s.xfc.err = .none) (hf : s.xfc.fsm = .idle) (hm : s.xfc.modev = true)
    (hlen : p.length ≤ size k) :
    runCommands ((hdr k :: seq :: cmpl :: p).map .rxbyte) s = .next (rxTaken k seq cmpl p s) := by
  induction p using List.reverseRecOn with
  | nil => exact runCommands_rxHead he hf hm
  | append_singleton p b ih =>
    rw [List.length_append, List.length_singleton] at hlen
    have hsplit : hdr k :: seq :: cmpl :: (p ++ [b]) = (hdr k :: seq :: cmpl :: p) ++ [b] := rfl
    rw [hsplit, List.map_append, runCommands_append _ (ih (by omega))]
    exact runCommands_cons [] (exec_rxbyte_rxTaken b he hlen)

/-! ## The trailer and the verdict (R166 to R169) -/

/-- The trailer bytes give the verdict on the trailer check of R170; in CRC16 mode RTH holds the first of them. -/
theorem runCommands_rxTrailer {trl : List Byte} (he : s.xfc.err = .none) (hf : s.xfc.fsm = .rxtrl1)
    (hsum : s.xfc.sum = checksum p) (hcrc : s.xfc.crc = crc16 p) (hlen : trl.length = tlen s.xfc.mode) :
    ∃ rth, runCommands (trl.map .rxbyte) s =
      .next (verdict (trailerMatches s.xfc.mode p trl) (s.update fun x => { x with rth := rth })) := by
  cases hmode : s.xfc.mode with
  | checksum =>
    rw [hmode] at hlen
    obtain ⟨c, rfl⟩ := List.length_eq_one_iff.mp hlen
    refine ⟨s.xfc.rth, ?_⟩
    rw [trailerMatches, ← hsum]
    exact runCommands_cons [] (exec_rxbyte_rxtrl1_checksum he hf hmode)
  | crc16 =>
    rw [hmode] at hlen
    obtain ⟨h, l, rfl⟩ := List.length_eq_two.mp hlen
    refine ⟨h, ?_⟩
    rw [trailerMatches, ← hcrc, List.map_cons, runCommands_cons _ (exec_rxbyte_rxtrl1_crc16 he hf hmode)]
    exact runCommands_cons [] (exec_rxbyte_rxtrl2 l he rfl)

/-- A receive frame all of whose bytes have been taken; RTH is what the trailer left in it. -/
def rxWhole (k : BlockKind) (seq cmpl : Byte) (p : List Byte) (rth : Byte) (s : State) : State :=
  (rxTaken k seq cmpl p s).update fun x => { x with rth := rth }

/-- A whole frame gives the verdict on what has been taken. -/
theorem runCommands_rxFrame {trl : List Byte} (he : s.xfc.err = .none) (hf : s.xfc.fsm = .idle)
    (hm : s.xfc.modev = true) (hp : p.length = size k) (htrl : trl.length = tlen s.xfc.mode) :
    ∃ rth, runCommands ((hdr k :: seq :: cmpl :: (p ++ trl)).map .rxbyte) s =
      .next (verdict (trailerMatches s.xfc.mode p trl) (rxWhole k seq cmpl p rth s)) := by
  have hsplit : hdr k :: seq :: cmpl :: (p ++ trl) = (hdr k :: seq :: cmpl :: p) ++ trl := rfl
  rw [hsplit, List.map_append, runCommands_append _ (runCommands_rxTaken he hf hm hp.le)]
  exact runCommands_rxTrailer (s := rxTaken k seq cmpl p s) he (if_pos hp) rfl rfl htrl

theorem releasedPayload_rxWhole (rth : Byte) (hp : p.length = size k) :
    releasedPayload (rxWhole k seq cmpl p rth s).xfc = p := by
  have hread := readFirst_storeFirst p s.xfc.buf
  rw [hp] at hread
  exact hread

end

/-! ## decode_and_validate (R170, R171) -/

/-- What decode_and_validate answers where the verdict has a code. -/
def verdictResult (code : RxRes) (p : List Byte) : Except RxRes (List Byte) :=
  if code = .ok then .ok p else .error code

/-- decode_and_validate makes the checks of the verdict, in the same order. -/
theorem decodeAndValidate_eq {k : BlockKind} {p trl : List Byte} {mode : Mode} (x : Xfc) (hp : p.length = size k)
    (htrl : trl.length = tlen mode) :
    decodeAndValidate (hdr k :: x.rseq :: x.rcmp :: (p ++ trl)) x.seq mode =
      some (verdictResult (verdictCode (trailerMatches mode p trl) x) p) := by
  have hbody : (p ++ trl).length = size k + tlen mode := by rw [List.length_append, hp, htrl]
  simp only [decodeAndValidate, headerKind_hdr, if_pos hbody, List.take_left' hp, List.drop_left' hp]
  rw [verdictCode, apply_ite (verdictResult · p), apply_ite (verdictResult · p), apply_ite (verdictResult · p)]
  rfl

theorem verdictCode_error {ok : Bool} {x : Xfc} (h : verdictCode ok x ≠ .ok) :
    verdictCode ok x = .badcmpl ∨ verdictCode ok x = .badseq ∨ verdictCode ok x = .badtrl := by
  by_cases hcmpl : x.rseq.toNat + x.rcmp.toNat = 0xFF
  · by_cases hseq : x.rseq = x.seq
    · cases ok with
      | false => exact .inr (.inr (verdictCode_badtrl hcmpl hseq))
      | true => exact absurd (verdictCode_ok.mpr ⟨hcmpl, hseq, rfl⟩) h
    · exact .inr (.inl (verdictCode_badseq hcmpl hseq))
  · exact .inl (verdictCode_badcmpl hcmpl)

/-- A verdict is OK and releases what decode_and_validate answers, or it has the code of the error and releases
nothing. -/
theorem verdict_answers {ok : Bool} {s : State} {p : List Byte} (hp : releasedPayload s.xfc = p) :
    (verdictResult (verdictCode ok s.xfc) p = .ok p ∧ (verdict ok s).xfc.rxres = .ok ∧
      (verdict ok s).rx = s.rx ++ p) ∨
    ∃ e, verdictResult (verdictCode ok s.xfc) p = .error e ∧ (verdict ok s).xfc.rxres = e ∧
      (e = .badcmpl ∨ e = .badseq ∨ e = .badtrl) ∧ (verdict ok s).rx = s.rx := by
  by_cases hc : verdictCode ok s.xfc = .ok
  · rw [verdict_of_ok hc, hc, ← releasedPayload, hp]
    exact .inl ⟨rfl, rfl, rfl⟩
  · rw [verdict_of_ne_ok rfl hc, verdictResult, if_neg hc]
    exact .inr ⟨_, rfl, rfl, verdictCode_error hc, rfl⟩

/-- Settles O46: the frame gives a verdict, which answers as decode_and_validate does. -/
theorem receiveCommandsDecodeAndValidateTheFrame : Obligations.ReceiveCommandsDecodeAndValidateTheFrame := by
  unfold Obligations.ReceiveCommandsDecodeAndValidateTheFrame
  intro k seq cmpl p trl s he hf hm hp htrl
  obtain ⟨rth, hrun⟩ := runCommands_rxFrame (seq := seq) (cmpl := cmpl) he hf hm hp htrl
  have hcnt : (rxWhole k seq cmpl p rth s).xfc.cnt.toNat = size k := (toNat_ofNat_count hp.le).trans hp
  refine ⟨_, _, decodeAndValidate_eq (rxWhole k seq cmpl p rth s).xfc hp htrl, hrun, rfl, rfl, rfl, he, rfl, rfl,
    hcnt, rfl, rfl, rfl, rfl, ?_⟩
  rcases verdict_answers (releasedPayload_rxWhole rth hp) with ⟨hres, hok, hrx⟩ | ⟨e, hres, hcode, herr, hrx⟩
  · rw [hres]
    exact ⟨rfl, hok, hrx⟩
  · rw [hres]
    exact ⟨hcode, herr, hrx⟩

/-! ## The round trip (R172) -/

theorem trailerMatches_frameTrailer (mode : Mode) (q : List Byte) :
    trailerMatches mode q (frameTrailer mode q) = true := by
  cases mode with
  | checksum => exact beq_self_eq_true _
  | crc16 => exact beq_iff_eq.mpr (joinBytes_hi_lo _)

section
variable {k : BlockKind} {q : List Byte} (hq : q.length = size k)
include hq

theorem encodeFrame_block (seq : Byte) (mode : Mode) :
    encodeFrame seq q mode = some (hdr k :: seq :: complement seq :: (q ++ frameTrailer mode q)) :=
  encodeFrame_eq_some.mpr ⟨k, hq, rfl⟩

/-- An encoded frame passes the three checks. -/
theorem decodeAndValidate_frame (seq : Byte) (mode : Mode) :
    decodeAndValidate (hdr k :: seq :: complement seq :: (q ++ frameTrailer mode q)) seq mode = some (.ok q) := by
  have hok := verdictCode_ok (x := { Xfc.reset with seq := seq, rseq := seq, rcmp := complement seq }).mpr
    ⟨toNat_add_complement seq, rfl, trailerMatches_frameTrailer mode q⟩
  have hresult := decodeAndValidate_eq { Xfc.reset with seq := seq, rseq := seq, rcmp := complement seq } hq
    (length_frameTrailer mode q)
  rw [hok] at hresult
  exact hresult

theorem blockPayload_block (pad : Byte) : blockPayload k q pad = q := by
  rw [blockPayload, hq, Nat.sub_self, List.replicate_zero, List.append_nil]

theorem txFrameCommands_block : txFrameCommands k q = .txbegin k :: q.map .txdata := by
  rw [txFrameCommands, if_neg hq.not_lt, List.append_nil]

/-- The transmit commands of a whole block emit its encoded frame (R146). -/
theorem runCommands_txBlock {s : State} (he : s.xfc.err = .none) (hf : s.xfc.fsm = .idle)
    (hm : s.xfc.modev = true) :
    ∃ t, runCommands (.txbegin k :: q.map .txdata) s = .next t ∧
      t.tx = s.tx ++ (hdr k :: s.xfc.seq :: complement s.xfc.seq :: (q ++ frameTrailer s.xfc.mode q)) := by
  obtain ⟨f, hframe, hrun⟩ := runCommands_txFrameCommands he hf hm hq.le
  rw [blockPayload_block hq, encodeFrame_block hq] at hframe
  cases hframe
  exact ⟨_, (txFrameCommands_block hq).symm ▸ hrun, rfl⟩

/-- The receive commands of an encoded frame with the expected number end with OK and release its payload (R171). -/
theorem runCommands_rxFrame_encoded {s : State} (he : s.xfc.err = .none) (hf : s.xfc.fsm = .idle)
    (hm : s.xfc.modev = true) :
    ∃ t, runCommands
      ((hdr k :: s.xfc.seq :: complement s.xfc.seq :: (q ++ frameTrailer s.xfc.mode q)).map .rxbyte) s = .next t ∧
      t.xfc.rxres = .ok ∧ t.rx = s.rx ++ q := by
  obtain ⟨rth, hrun⟩ := runCommands_rxFrame (seq := s.xfc.seq) (cmpl := complement s.xfc.seq) he hf hm hq
    (length_frameTrailer s.xfc.mode q)
  have hok : verdictCode (trailerMatches s.xfc.mode q (frameTrailer s.xfc.mode q))
      (rxWhole k s.xfc.seq (complement s.xfc.seq) q rth s).xfc = .ok :=
    verdictCode_ok.mpr ⟨toNat_add_complement s.xfc.seq, rfl, trailerMatches_frameTrailer _ _⟩
  rw [verdict_of_ok hok, ← releasedPayload, releasedPayload_rxWhole rth hq] at hrun
  exact ⟨_, hrun, rfl, rfl⟩

end

/-- Settles O47: an encoded frame passes the checks, in the source's functions and in the XFC that is fed it. -/
theorem roundTripReleasesThePayload : Obligations.RoundTripReleasesThePayload := by
  unfold Obligations.RoundTripReleasesThePayload
  refine ⟨fun k seq q mode hq => ⟨_, encodeFrame_block hq seq mode, decodeAndValidate_frame hq seq mode⟩,
    fun k q s r hes hfs hms her hfr hmr hseq hmode hq => ?_⟩
  obtain ⟨t, hsend, htx⟩ := runCommands_txBlock hq hes hfs hms
  obtain ⟨u, hreceive, hok, hrx⟩ := runCommands_rxFrame_encoded hq her hfr hmr
  rw [hseq, hmode] at hreceive
  exact ⟨_, t, u, encodeFrame_block hq _ _, hsend, htx, hreceive, hok, hrx⟩

end Sys2Proof.Machine
end

section
/-! PROOF. The family 45_system.md: the framer's transition table (R191) and the system commands NOP, INIT, ERRCLR,
ABORT and RD (R185 to R189). -/

namespace Sys2Proof.Machine

/-! ## The framer's transitions (R191) -/

section
variable {i : Instr} {b : Byte} {s t : State}

/-- RXBYTE in IDLE opens a receive frame with one of the two header bytes only (R161, R162). -/
theorem rxIdle_fsm (hf : s.xfc.fsm = .idle) :
    (rxIdle b s).xfc.fsm = if b = 0x01#8 ∨ b = 0x02#8 then .rxseq else .idle := by
  by_cases hb : b = 0x01#8 ∨ b = 0x02#8
  · rw [if_pos hb]
    rcases hb with rfl | rfl
    · exact congrArg (·.xfc.fsm) (rxIdle_header (headerKind_hdr .soh) s)
    · exact congrArg (·.xfc.fsm) (rxIdle_header (headerKind_hdr .stx) s)
  · obtain ⟨hsoh, hstx⟩ := not_or.mp hb
    rw [if_neg hb, rxIdle_noHeader (headerKind_eq_none hsoh hstx)]
    exact hf

/-- RXBYTE that executes takes FSM along the rows of the receive states. -/
theorem rxbyte_fsm (hcnt : s.xfc.fsm = .rxpayload → s.xfc.cnt.toNat < size s.xfc.blk) (he : Effect (.rxbyte b) s t) :
    t.xfc.fsm = fsmAfter (.rxbyte b) s.xfc := by
  rcases he with ⟨hf, -, rfl⟩ | ⟨hf, rfl⟩ | ⟨hf, rfl⟩ | ⟨hf, rfl⟩ | ⟨hf, rfl⟩ | ⟨hf, rfl⟩ <;>
    simp only [fsmAfter, hf]
  · exact rxIdle_fsm hf
  · rfl
  · rfl
  · have hadd : (s.xfc.cnt + 1#11).toNat = s.xfc.cnt.toNat + 1 := toNat_cnt_add (hcnt hf)
    simp only [rxPayload_eq, hadd, hf]
  · cases hm : s.xfc.mode with
    | checksum => rw [rxTrailer1_checksum b hm, verdict_eq]
    | crc16 => rw [rxTrailer1_crc16 b hm, update_xfc]
  · rfl

/-- TXDATA that executes closes the frame with its last payload byte only (R143). -/
theorem txdata_fsm (hcnt : s.xfc.fsm = .txpayload → s.xfc.cnt.toNat < size s.xfc.blk) (he : Effect (.txdata b) s t) :
    t.xfc.fsm = fsmAfter (.txdata b) s.xfc := by
  obtain ⟨hf, rfl⟩ := he
  have hadd : (txPut b s).xfc.cnt.toNat = s.xfc.cnt.toNat + 1 := toNat_cnt_add (hcnt hf)
  have hdone : payloadDone (txPut b s).xfc = true ↔ s.xfc.cnt.toNat + 1 = size s.xfc.blk :=
    hadd ▸ payloadDone_iff
  simp only [fsmAfter, hdone]
  split
  · rfl
  · exact hf

/-- A command that executes takes FSM where the table says; only the two payload states ask for R39(d) and (f), so that
CNT + 1 does not wrap. -/
theorem effect_fsm (hcnt : s.xfc.fsm = .txpayload ∨ s.xfc.fsm = .rxpayload → s.xfc.cnt.toNat < size s.xfc.blk)
    (he : Effect i s t) : t.xfc.fsm = fsmAfter i s.xfc := by
  cases i with
  | nop | init | errclr | abort | rd =>
    subst he
    rfl
  | sumclr | sumbyte | crcclr | crcbyte | setseq | seqnext | setpad =>
    obtain ⟨-, rfl⟩ := he
    rfl
  | setmode | txbegin =>
    obtain ⟨-, -, rfl⟩ := he
    rfl
  | txdata => exact txdata_fsm (fun hf => hcnt (.inl hf)) he
  | txpad =>
    obtain ⟨-, rfl⟩ := he
    rfl
  | rxbyte => exact rxbyte_fsm (fun hf => hcnt (.inr hf)) he

/-- A rejected or an ignored command changes at most ERR (R232, R233). -/
theorem exec_of_not_executes (h : exec i s = .next t) (hx : executes i s.xfc = false) :
    t = { s with xfc := { s.xfc with err := t.xfc.err } } := by
  rcases exec_cases h with ⟨-, -, rfl⟩ | ⟨-, c, -, rfl⟩ | ⟨hx', -⟩
  · rfl
  · rfl
  · exact absurd (hx.symm.trans hx') Bool.false_ne_true

/-- A command that executes has the effect of its own rule. -/
theorem effect_of_executes (h : exec i s = .next t) (hx : executes i s.xfc = true) : Effect i s t := by
  rcases exec_cases h with ⟨he, hi, -⟩ | ⟨he, c, hc, -⟩ | ⟨-, heff⟩
  · simp [executes, he, hi] at hx
  · simp [executes, he, hc] at hx
  · exact heff

theorem illegalWord_fsm (s : State) : ∃ t, illegalWord s = .next t ∧ t.xfc.fsm = s.xfc.fsm := by
  by_cases he : s.xfc.err = .none
  · exact ⟨_, illegalWord_clear he, rfl⟩
  · exact ⟨s, illegalWord_latched he, rfl⟩

end

/-- Settles O52: a command that executes by its effect, one that does not by the one item it can change; rst and an
illegal word by what the step answers. -/
theorem framerFollowsTheTransitionTable : Obligations.FramerFollowsTheTransitionTable := by
  unfold Obligations.FramerFollowsTheTransitionTable
  refine ⟨fun i s t hcnt h => ⟨fun hx => effect_fsm hcnt (effect_of_executes h hx), fun hx => ?_⟩,
    fun s rest hin => ⟨_, step_rst hin, rfl⟩, fun s w rest e hin hw => ?_⟩
  · rw [exec_of_not_executes h hx]
  · rw [step_command_error hin hw]
    exact illegalWord_fsm { s with input := rest }

/-! ## NOP, INIT, ERRCLR and ABORT (R185 to R188) -/

/-- Settles O12: NOP executes in every state and its effect is none. -/
theorem nopChangesNothing : Obligations.NopChangesNothing := by
  unfold Obligations.NopChangesNothing
  exact ⟨decode_encode .nop, fun s => rfl⟩

/-- Settles O13: INIT executes in every state, with the reset values of freshSession. -/
theorem initStartsAFreshSession : Obligations.InitStartsAFreshSession := by
  unfold Obligations.InitStartsAFreshSession
  exact ⟨decode_encode .init, fun s => rfl⟩

/-- Settles O14: ERRCLR executes in every state and releases the latch. -/
theorem errclrReleasesTheLatchAndNothingElse : Obligations.ErrclrReleasesTheLatchAndNothingElse := by
  unfold Obligations.ErrclrReleasesTheLatchAndNothingElse
  exact ⟨decode_encode .errclr, fun s => rfl⟩

/-- Settles O15: ABORT by its effect, no check failing in any framer state; under the latch it is ignored. -/
theorem abortAbandonsTheFrame : Obligations.AbortAbandonsTheFrame := by
  unfold Obligations.AbortAbandonsTheFrame
  refine ⟨decode_encode .abort, fun s => ⟨fun he => ?_, fun he => exec_of_latched he rfl⟩⟩
  exact exec_of_effect (by simp [executes, failedCheck, he]) rfl

/-! ## RD (R189) -/

theorem encode_rd (r : RegView) : encode (.rd r) = 0x0800#16 + r.number.setWidth 16 := by cases r <;> rfl

theorem toNat_append_eq_add {m n : Nat} (a : BitVec m) (b : BitVec n) : (a ++ b).toNat = 2 ^ n * a.toNat + b.toNat := by
  rw [BitVec.toNat_append, ← Nat.shiftLeft_add_eq_or_of_lt b.isLt, Nat.shiftLeft_eq, Nat.mul_comm]

theorem toNat_zext16 {n : Nat} (v : BitVec n) (h : n ≤ 16) : (zext16 v).toNat = v.toNat :=
  BitVec.toNat_setWidth_of_le h

theorem Mode.getLsbD_bit (m : Mode) : m.bit.getLsbD 0 = decide (m = .crc16) := by cases m <;> rfl

theorem BlockKind.getLsbD_bit (k : BlockKind) : k.bit.getLsbD 0 = decide (k = .stx) := by cases k <;> rfl

section
variable (x : Xfc)

theorem getLsbD_zero_ctrlView : (ctrlView x).getLsbD 0 = decide (x.mode = .crc16) := by
  rw [ctrlView, BitVec.getLsbD_append, ← Mode.getLsbD_bit]
  rfl

theorem getLsbD_one_ctrlView : (ctrlView x).getLsbD 1 = x.modev := by
  rw [ctrlView, BitVec.getLsbD_append, BitVec.getLsbD_append]
  cases x.modev <;> rfl

theorem getLsbD_two_ctrlView : (ctrlView x).getLsbD 2 = decide (x.blk = .stx) := by
  rw [ctrlView, BitVec.getLsbD_append, BitVec.getLsbD_append, BitVec.getLsbD_append, ← BlockKind.getLsbD_bit]
  rfl

/-- Above the three bits CTRL is 0. -/
theorem toNat_ctrlView_lt : (ctrlView x).toNat < 8 := by
  have hblk := x.blk.bit.isLt
  have hmodev := Bool.toNat_le x.modev
  have hmode := x.mode.bit.isLt
  simp only [ctrlView, toNat_append_eq_add, BitVec.toNat_ofBool, BitVec.toNat_ofNat]
  omega

end

theorem toNat_statView (x : Xfc) :
    (statView x).toNat = x.fsm.code.toNat + 8 * x.err.code.toNat + 64 * x.rxres.code.toNat := by
  simp only [statView, toNat_append_eq_add, BitVec.toNat_ofNat]
  omega

/-- Settles O16: the words by the decoder, the answer view by view. -/
theorem rdAnswersTheViewAndChangesNothing : Obligations.RdAnswersTheViewAndChangesNothing := by
  unfold Obligations.RdAnswersTheViewAndChangesNothing
  refine ⟨fun r => ?_, fun w => decode_error_of_le (op := 0x08#8) (lo := 0x08#8) (fmt := .r) rfl le_rfl,
    fun r s => ⟨view r s.xfc, rfl, ?_⟩⟩
  · rw [← encode_rd, decode_encode]
  · cases r with
    | crc => rfl
    | sum | seq | pad | cnt => exact toNat_zext16 _ (by decide)
    | ctrl => exact ⟨getLsbD_zero_ctrlView s.xfc, getLsbD_one_ctrlView s.xfc, getLsbD_two_ctrlView s.xfc,
        toNat_ctrlView_lt s.xfc⟩
    | stat => exact toNat_statView s.xfc
    | rxsc => exact (toNat_joinBytes s.xfc.rcmp s.xfc.rseq).trans (Nat.add_comm _ _)

end Sys2Proof.Machine
end

section
/-! PROOF. The family 60_exceptions.md: what a step takes and executes (R231, R252), the illegal word (R235), the
rejection (R232), the fault latch (R233) and the precondition table (R241). -/

namespace Sys2Proof.Machine

/-! ## The step on an illegal word (R235) -/

section
variable {s : State} {w : Word} {rest : List HostEvent} {e : DecodeError}

theorem step_illegal_clear (hin : s.input = .command w :: rest) (hw : decode w = .error e) (he : s.xfc.err = .none) :
    step s = .next { s with input := rest, xfc := { s.xfc with err := .illegal } } :=
  (step_command_error hin hw).trans (illegalWord_clear (s := { s with input := rest }) he)

theorem step_illegal_latched (hin : s.input = .command w :: rest) (hw : decode w = .error e) (he : s.xfc.err ≠ .none) :
    step s = .next { s with input := rest } :=
  (step_command_error hin hw).trans (illegalWord_latched (s := { s with input := rest }) he)

end

/-! ## What is offered (R231, R252) -/

theorem decodeTableWord_eq_some {nbits w : Nat} {i : Instr} :
    decodeTableWord nbits w = some i ↔ decode (tableWord nbits w) = .ok i := by
  rw [decodeTableWord]
  cases decode (tableWord nbits w) <;> simp

/-- The host's fetch word is the one that the next step takes, and it leaves what was offered before. -/
theorem step_withFetchWord {s : State} {nbits w : Nat} {i : Instr} (h : decodeTableWord nbits w = some i) :
    step (s.withFetchWord nbits w) = exec i s :=
  step_command_ok (offerFirst_input s (tableWord nbits w)) (decodeTableWord_eq_some.mp h)

/-- Settles O7: a legal word by the step's equation, an illegal one by the latch, the fetch word as a word offered. -/
theorem stepExecutesTheDecodedCommand : Obligations.StepExecutesTheDecodedCommand := by
  unfold Obligations.StepExecutesTheDecodedCommand
  exact ⟨fun s w rest hin => ⟨fun i hw => step_command_ok hin hw,
      fun e hw => ⟨step_illegal_clear hin hw, step_illegal_latched hin hw⟩⟩,
    fun s nbits w i h => step_withFetchWord h⟩

/-- Settles O8: the step finds nothing to take. -/
theorem nothingOfferedChangesNothing : Obligations.NothingOfferedChangesNothing := by
  unfold Obligations.NothingOfferedChangesNothing
  exact fun s => step_nothing

/-! ## The writers of ERR -/

/-- A command that executes is not rejected. -/
theorem mayReject_of_executes {i : Instr} {x : Xfc} (item : Item) (hx : executes i x = true) :
    mayWrite.mayReject i x item = false := by
  by_cases he : x.err = .none
  · have hpass : failedCheck i x = none := by simpa [executes, he] using hx
    simp [mayWrite.mayReject, hpass]
  · simp [mayWrite.mayReject, he]

/-- Of the commands that execute, the write map (R43) lists two for ERR. -/
theorem mayWrite_err_of_executes {i : Instr} {x : Xfc} (hx : executes i x = true) (hw : mayWrite .err i x = true) :
    i = .errclr ∨ i = .init := by
  cases i with
  | errclr => exact .inl rfl
  | init => exact .inr rfl
  | nop | rd => cases hw
  | _ => simp [mayWrite, mayReject_of_executes .err hx] at hw

section
variable {i : Instr} {s t : State}

/-- Both commands that release the latch execute in every state (R187, R186). -/
theorem exec_release (hi : i = .errclr ∨ i = .init) : ∃ t, exec i s = .next t ∧ t.xfc.err = .none := by
  rcases hi with rfl | rfl <;> exact ⟨_, rfl, rfl⟩

/-- Everything a command can do to ERR: keep it, release it, or set it by a rejection that does nothing else. -/
theorem exec_err_cases (h : exec i s = .next t) :
    t.xfc.err = s.xfc.err ∨
    ((i = .errclr ∨ i = .init) ∧ t.xfc.err = .none) ∨
    (s.xfc.err = .none ∧ ∃ c, failedCheck i s.xfc = some c ∧ t = { s with xfc := { s.xfc with err := c } }) := by
  rcases exec_cases h with ⟨-, -, rfl⟩ | hrejected | ⟨hx, heff⟩
  · exact .inl rfl
  · exact .inr (.inr hrejected)
  · by_cases hw : mayWrite .err i s.xfc = true
    · have hi := mayWrite_err_of_executes hx hw
      obtain ⟨u, hu, hnone⟩ := exec_release (s := s) hi
      obtain rfl : u = t := Host.Outcome.next.inj (hu.symm.trans h)
      exact .inr (.inl ⟨hi, hnone⟩)
    · exact .inl (sameItem_effect (item := .err) heff (Bool.eq_false_of_not_eq_true hw))

/-- A command whose checks all pass is accepted (R241). -/
theorem exec_keeps_err_none (he : s.xfc.err = .none) (hc : failedCheck i s.xfc = none) (h : exec i s = .next t) :
    t.xfc.err = .none := by
  rcases exec_err_cases h with hsame | ⟨-, hnone⟩ | ⟨-, c, hc', -⟩
  · exact hsame.trans he
  · exact hnone
  · exact absurd (hc.symm.trans hc') (Option.some_ne_none c).symm

end

/-! ## The rejection, the latch and the precondition table -/

/-- The second column of the precondition table (R241) is the list of R233. -/
theorem executesLatched_eq_false {i : Instr} (hnop : i ≠ .nop) (hrd : ∀ r, i ≠ .rd r) (herrclr : i ≠ .errclr)
    (hinit : i ≠ .init) : executesLatched i = false := by
  cases i with
  | nop => exact absurd rfl hnop
  | rd r => exact absurd rfl (hrd r)
  | errclr => exact absurd rfl herrclr
  | init => exact absurd rfl hinit
  | _ => rfl

/-- Settles O48: what is ignored by the precondition table, what writes ERR by the three cases, of which the rejection
asks for ERR = NONE. -/
theorem latchIgnoresAllButFourCommands : Obligations.LatchIgnoresAllButFourCommands := by
  unfold Obligations.LatchIgnoresAllButFourCommands
  intro s he
  refine ⟨fun i hnop hrd herrclr hinit => exec_of_latched he (executesLatched_eq_false hnop hrd herrclr hinit),
    fun w rest e hin hw => step_illegal_latched hin hw he, fun i t h hne => ?_, exec_release (.inl rfl),
    exec_release (.inr rfl), fun rest hin => ⟨_, step_rst hin, rfl⟩, (faultOut_iff s).mpr he⟩
  rcases exec_err_cases h with hsame | hrelease | ⟨hclear, -⟩
  · exact absurd hsame hne
  · exact hrelease
  · exact absurd hclear he

/-- Settles O49: of the three things a command can do to ERR only the rejection leaves a new code; an illegal word does
that one thing or, under the latch, keeps ERR. -/
theorem rejectionChangesNothingButErr : Obligations.RejectionChangesNothingButErr := by
  unfold Obligations.RejectionChangesNothingButErr
  refine ⟨fun i s t h hne hcode => ?_, fun s t w rest e hin hw h hne => ?_⟩
  · rcases exec_err_cases h with hsame | ⟨-, hnone⟩ | ⟨hclear, c, -, rfl⟩
    · exact absurd hsame hne
    · exact absurd hnone hcode
    · exact ⟨hclear, rfl⟩
  · by_cases he : s.xfc.err = .none
    · obtain rfl := Host.Outcome.next.inj ((step_illegal_clear hin hw he).symm.trans h)
      exact ⟨he, rfl⟩
    · obtain rfl := Host.Outcome.next.inj ((step_illegal_latched hin hw he).symm.trans h)
      exact absurd rfl hne

/-- Settles O50: the illegal word, the first failing check, no failing check, the second column, each by its rule. -/
theorem preconditionTableGivesTheRejection : Obligations.PreconditionTableGivesTheRejection := by
  unfold Obligations.PreconditionTableGivesTheRejection
  exact ⟨fun s w rest e => step_illegal_clear,
    fun i s => ⟨fun he c hc => exec_of_failedCheck he hc, fun he hc t h => exec_keeps_err_none he hc h,
      exec_of_latched⟩⟩

end Sys2Proof.Machine
end

section
/-! PROOF. The family 70_reset_and_hazards.md: the state after reset (R261). -/

namespace Sys2Proof.Machine

/-- Settles O10: the registers after reset are a fresh session over an empty BUF, whose FSM and ERR keep both levels
low; nothing has been emitted. -/
theorem resetStateHoldsTheStatedValues : Obligations.ResetStateHoldsTheStatedValues := by
  unfold Obligations.ResetStateHoldsTheStatedValues
  have hvalues : State.reset.xfc.AtResetValues := freshSession_reset ▸ atResetValues_freshSession []
  have hbusy : State.reset.busyOut = false := Bool.eq_false_iff.mpr fun h => (busyOut_iff _).mp h rfl
  have hfault : State.reset.faultOut = false := Bool.eq_false_iff.mpr fun h => (faultOut_iff _).mp h rfl
  exact ⟨hvalues, hbusy, hfault, rfl, rfl, rfl⟩

end Sys2Proof.Machine
end
